-- ==== Sys2Proof/Word.lean ====
section
/-! DEFINITION. The words of the block: registers, samples and binary64 factors as bit patterns
(spec/00_scope.md R9, R12; spec/20_memory.md R77). -/

namespace Sys2Proof

/-- One byte of a register access (20_memory.md R77). -/
abbrev Byte := BitVec 8

/-- A 64-bit register or command word (10_state.md R32, 30_encoding.md R100). -/
abbrev Word := BitVec 64

/-- The bit pattern of a binary64 value: a factor or a bound (10_state.md R41). -/
abbrev F64 := BitVec 64

/-- The bit pattern of a binary32 value: a sample or a coefficient (20_memory.md R77). -/
abbrev Sample := BitVec 32

/-- The binary32 pattern of +0.0. -/
def Sample.zero : Sample := 0#32

/-- The binary64 pattern of 1.0, the reset value of the factor operands (10_state.md R41 to R43). -/
def F64.one : F64 := 0x3FF0000000000000#64

end Sys2Proof
end

