-- ==== Sys2Proof/Syntax.lean ====
section
/-! DEFINITION. The commands of the block, one constructor per row of spec/opcode_table.json
(spec/30_encoding.md R100, R108). -/

namespace Sys2Proof

/-- A command. `quality` is read as an unsigned 2-bit value (30_encoding.md R104), so a number of it is
checked in WellFormed; `interp` and `last` are one bit each (R102, R103). -/
inductive Instr where
  /-- CONFIG: construct the engine (42_engine.md R181). -/
  | config (quality : Nat) (interp : Bool)
  /-- PROCESS: one `process` call (42_engine.md R188). -/
  | process (last : Bool)
  deriving DecidableEq, Repr

end Sys2Proof
end

