-- ==== Sys2Proof/WellFormed.lean ====
section
/-! DEFINITION. Which commands a command word can spell (spec/30_encoding.md R104, R108). -/

namespace Sys2Proof

/-- QUALITY is a 2-bit field (30_encoding.md R100). The values 2 and 3 are well formed: CONFIG itself
refuses them (R110). Every PROCESS is well formed. -/
def Instr.wellFormed : Instr → Bool
  | .config quality _ => decide (quality < 4)
  | .process _ => true

/-- `wellFormed` as a proposition. -/
abbrev Instr.WellFormed (i : Instr) : Prop := i.wellFormed = true

end Sys2Proof
end

