-- ==== Sys2Proof/Decode.lean ====
section
/-! DEFINITION. Decoding and encoding of the command word CMDW (spec/30_encoding.md R100 to R111), and its
byte order on a bus that carries bytes (spec/20_memory.md R77). -/

namespace Sys2Proof

/-- Why a command word is malformed (30_encoding.md R105), in the order of R106's checks. -/
inductive DecodeError where
  /-- R105 (b): a bit of [63:8] is 1. -/
  | reservedBits
  /-- R105 (c): LAST is 1 in a CONFIG word. -/
  | lastInConfig
  /-- R105 (d): INTERP or QUALITY is not 0 in a PROCESS word. -/
  | configFieldsInProcess
  /-- R105 (a): OP is neither 0x1 nor 0x2. -/
  | reservedOp
  /-- Not a command word at all: the access does not carry eight bytes (20_memory.md R76). -/
  | notEightBytes
  deriving DecidableEq, Repr

/-- The bit field `v[hi:lo]` as an unsigned integer (00_scope.md R9). -/
def field (v : Word) (hi lo : Nat) : Nat := v.toNat / 2 ^ lo % 2 ^ (hi + 1 - lo)

/-- Decoding of a word written to CMD: 30_encoding.md R106, check by check. -/
def decode (w : Word) : Except DecodeError Instr :=
  if field w 63 8 ≠ 0 then .error .reservedBits
  else if field w 3 0 = 0x1 then
    if field w 4 4 ≠ 0 then .error .lastInConfig
    else .ok (.config (field w 7 6) (field w 5 5 == 1))
  else if field w 3 0 = 0x2 then
    if field w 7 5 ≠ 0 then .error .configFieldsInProcess
    else .ok (.process (field w 4 4 == 1))
  else .error .reservedOp

/-- The eight bytes of a word in bus order: byte k is bits [8k+7:8k] (20_memory.md R77). -/
def bytesOfWord (w : Word) : List Byte :=
  (List.range 8).map fun k => BitVec.ofNat 8 (field w (8 * k + 7) (8 * k))

/-- The number a list of bytes spells, first byte least significant (20_memory.md R77). -/
def natOfBytes : List Byte → Nat
  | [] => 0
  | b :: rest => b.toNat + 256 * natOfBytes rest

/-- Decoding of the bytes of a command word. Every command word is 64 bits (30_encoding.md R111). -/
def decodeBytes (bytes : List Byte) : Except DecodeError Instr :=
  if bytes.length = 8 then decode (BitVec.ofNat 64 (natOfBytes bytes)) else .error .notEightBytes

/-- The command word of a command: the fields of 30_encoding.md R100, OP as in R101. -/
def encode : Instr → Word
  | .config quality interp => BitVec.ofNat 64 (0x1 + 32 * interp.toNat + 64 * quality)
  | .process last => BitVec.ofNat 64 (0x2 + 16 * last.toNat)

/-- The bytes of a command word as the bus carries them. -/
def encodeBytes (i : Instr) : List Byte := bytesOfWord (encode i)

/-- What the decoder reads from an instruction whose bits are `w`, numbered as spec/opcode_table.json numbers
them; bits above `nbits` are 0. -/
def decodeTableWord (nbits w : Nat) : Option Instr :=
  match decodeBytes (bytesOfWord (BitVec.ofNat 64 (w % 2 ^ nbits))) with
  | .ok i => some i
  | .error _ => none

end Sys2Proof
end

