-- ==== Sys2Proof/Config.lean ====
section
/-! DEFINITION. What a build of the block fixes (spec/00_scope.md R7), and the values the spec leaves
unspecified as constants without a body. -/

namespace Sys2Proof

/-- A quality tier (00_scope.md R18; CFG.QUALITY 0 and 1, 10_state.md R48). -/
inductive Quality where
  | fast
  | high
  deriving DecidableEq, Repr

/-- The contents of one tier's coefficient ROM (40_filter_design.md R134): what the default generator of R135
makes from the parameters, or a table written out. -/
inductive RomImage where
  | generated
  | table (entries : List Sample)
  deriving DecidableEq, Repr

/-- The build parameters of 00_scope.md R7 and the platform parameter REG_BASE of 20_memory.md R80. NPC is not a field:
it is 2^K (R8 (1)). -/
structure Params where
  k : Nat
  nmultFast : Nat
  nmultHigh : Nat
  nwingFast : Nat
  nwingHigh : Nat
  rolloff : F64
  beta : F64
  impFast : RomImage
  impHigh : RomImage
  xoffPad : Nat
  xsizeMin : Nat
  xsizePad : Nat
  ysizePad : F64
  xCap : Nat
  yCap : Nat
  implId : Word
  /-- REG_BASE, the address of the register window in the host's address space (20_memory.md R80). -/
  regBase : Nat
  deriving DecidableEq, Repr

/-- NPC, the table entries per input sample (00_scope.md R7, R8 (1)). -/
def Params.npc (p : Params) : Nat := 2 ^ p.k

/-- NMULT of a tier (40_filter_design.md R132). -/
def Params.nmult (p : Params) : Quality → Nat
  | .fast => p.nmultFast
  | .high => p.nmultHigh

/-- NWING of a tier (40_filter_design.md R132). -/
def Params.nwing (p : Params) : Quality → Nat
  | .fast => p.nwingFast
  | .high => p.nwingHigh

/-- The ROM image of a tier (40_filter_design.md R138). -/
def Params.image (p : Params) : Quality → RomImage
  | .fast => p.impFast
  | .high => p.impHigh

/-- The defaults of 00_scope.md R7. X_CAP, Y_CAP, IMPL_ID and REG_BASE are OPEN in the spec: 65536, 65536, 0 and 0 are
this model's (DESIGN CHOICE, unsafe: notes/assumptions/2.md, 3.md and 4.md). -/
def Params.default : Params where
  k := 12
  nmultFast := 11
  nmultHigh := 35
  nwingFast := 20480
  nwingHigh := 69632
  rolloff := 0x3FECCCCCCCCCCCCD#64
  beta := 0x4018000000000000#64
  impFast := .generated
  impHigh := .generated
  xoffPad := 10
  xsizeMin := 4096
  xsizePad := 10
  ysizePad := 0x4000000000000000#64
  xCap := 65536
  yCap := 65536
  implId := 0#64
  regBase := 0

/-- The ROM of the test configuration TC (95_test_vectors.md section 0). -/
def Params.tcRom : List Sample :=
  [0x3F800000#32, 0x3F600000#32, 0x3F200000#32, 0x3EC00000#32,
   0x3E000000#32, 0x3D800000#32, 0x3D000000#32, 0x3C800000#32]

/-- The test configuration TC (95_test_vectors.md section 0), used in tests and witnesses. Its REG_BASE is an address
other than 0, so that a test tells an address from an offset. -/
def Params.tc : Params where
  k := 2
  nmultFast := 5
  nmultHigh := 5
  nwingFast := 8
  nwingHigh := 8
  rolloff := 0x3FECCCCCCCCCCCCD#64
  beta := 0x4018000000000000#64
  impFast := .table Params.tcRom
  impHigh := .table Params.tcRom
  xoffPad := 1
  xsizeMin := 16
  xsizePad := 2
  ysizePad := 0x4000000000000000#64
  xCap := 64
  yCap := 64
  implId := 0#64
  regBase := 0x4000

/-- The n-th unspecified 64-bit value: a register read while BUSY (10_state.md R63), a register after a fault
(60_exceptions.md R239), the number of port transfers before a reset (70_reset_and_hazards.md R261). Nothing
constrains it (notes/assumptions/12.md). -/
opaque Config.freeWord : Nat → Word

/-- The content of word i of a memory after the n-th event that leaves it unspecified, `none` for an unwritten
word (60_exceptions.md R239). Nothing constrains it (notes/assumptions/12.md). -/
opaque Config.freeCell : Nat → Nat → Option Sample

end Sys2Proof
end

