-- ==== Sys2Proof/Machine/Float.lean ====
section
/-! DEFINITION. IEEE 754 arithmetic on bit patterns, one rounding to nearest even per operation
(spec/00_scope.md R11, R12; spec/41_filter_kernel.md R168 to R170). A finite value is a sign and a magnitude
counted in units of the format's least subnormal, so every operation is exact on naturals and rounds once. -/

namespace Sys2Proof.Machine

/-- RNE(n/d): the nearest integer to n/d, ties to even (00_scope.md R11), for d > 0. -/
def rneDiv (n d : Nat) : Nat :=
  if 2 * (n % d) < d then n / d
  else if d < 2 * (n % d) then n / d + 1
  else n / d + n / d % 2

/-- An IEEE 754 binary format by its field widths. -/
structure Format where
  expBits : Nat
  fracBits : Nat
  deriving DecidableEq, Repr

/-- binary32 (00_scope.md R12). -/
def binary32 : Format := ⟨8, 23⟩

/-- binary64 (00_scope.md R12). -/
def binary64 : Format := ⟨11, 52⟩

/-- The least positive value of the format is 2^-unitExp. -/
def Format.unitExp (F : Format) : Nat := 2 ^ (F.expBits - 1) - 2 + F.fracBits

/-- The pattern of +infinity. -/
def Format.infBits (F : Format) : Nat := (2 ^ F.expBits - 1) * 2 ^ F.fracBits

/-- The canonical quiet NaN: 0x7FC00000 in binary32 (41_filter_kernel.md R168). -/
def Format.qnan (F : Format) : Nat := F.infBits + 2 ^ (F.fracBits - 1)

/-- The datum a bit pattern stands for; `fin neg mag` is (-1)^neg * mag * 2^-unitExp. -/
inductive Datum where
  | nan
  | inf (neg : Bool)
  | fin (neg : Bool) (mag : Nat)
  deriving DecidableEq, Repr

/-- Reading a bit pattern. -/
def Format.datum (F : Format) (b : Nat) : Datum :=
  let neg : Bool := b / 2 ^ (F.expBits + F.fracBits) % 2 == 1
  let e := b / 2 ^ F.fracBits % 2 ^ F.expBits
  let f := b % 2 ^ F.fracBits
  if e = 2 ^ F.expBits - 1 then (if f = 0 then .inf neg else .nan)
  else if e = 0 then .fin neg f
  else .fin neg (2 ^ (e - 1) * (2 ^ F.fracBits + f))

/-- The sign bit put above a pattern of a magnitude. -/
def Format.pack (F : Format) (neg : Bool) (b : Nat) : Nat :=
  (if neg then 2 ^ (F.expBits + F.fracBits) else 0) + b

/-- The pattern of the magnitude num/den (in units of the least subnormal) rounded to nearest even. `k` is how
many bits the significand is shifted up; a carry out of the significand moves into the exponent by itself. -/
def Format.roundMag (F : Format) (num den : Nat) : Nat :=
  let k := Nat.log2 (num / den) - F.fracBits
  min (2 ^ F.fracBits * k + rneDiv num (2 ^ k * den)) F.infBits

/-- The pattern of a signed magnitude num/den, rounded once. -/
def Format.round (F : Format) (neg : Bool) (num den : Nat) : Nat := F.pack neg (F.roundMag num den)

/-- A signed magnitude as an integer. -/
def signed (neg : Bool) (mag : Nat) : Int := if neg then -(mag : Int) else mag

/-- IEEE addition. An exact zero sum is -0 only when both operands are -0 (41_filter_kernel.md R169). -/
def Format.add (F : Format) (a b : Nat) : Nat :=
  match F.datum a, F.datum b with
  | .fin s m, .fin t n =>
    let z := signed s m + signed t n
    if z = 0 then F.pack (s && t) 0 else F.round (decide (z < 0)) z.natAbs 1
  | .inf s, .inf t => if s = t then F.pack s F.infBits else F.qnan
  | .inf s, .fin _ _ => F.pack s F.infBits
  | .fin _ _, .inf t => F.pack t F.infBits
  | .nan, _ => F.qnan
  | _, .nan => F.qnan

/-- A pattern with its sign bit flipped: neg(a) of 00_scope.md R12. -/
def Format.neg (F : Format) (a : Nat) : Nat := a ^^^ 2 ^ (F.expBits + F.fracBits)

/-- IEEE subtraction. -/
def Format.sub (F : Format) (a b : Nat) : Nat := F.add a (F.neg b)

/-- IEEE multiplication. -/
def Format.mul (F : Format) (a b : Nat) : Nat :=
  match F.datum a, F.datum b with
  | .fin s m, .fin t n => F.round (s ^^ t) (m * n) (2 ^ F.unitExp)
  | .inf s, .inf t => F.pack (s ^^ t) F.infBits
  | .inf s, .fin t n => if n = 0 then F.qnan else F.pack (s ^^ t) F.infBits
  | .fin s m, .inf t => if m = 0 then F.qnan else F.pack (s ^^ t) F.infBits
  | .nan, _ => F.qnan
  | _, .nan => F.qnan

/-- IEEE division. -/
def Format.div (F : Format) (a b : Nat) : Nat :=
  match F.datum a, F.datum b with
  | .fin s m, .fin t n =>
    if n = 0 then (if m = 0 then F.qnan else F.pack (s ^^ t) F.infBits)
    else F.round (s ^^ t) (2 ^ F.unitExp * m) n
  | .inf _, .inf _ => F.qnan
  | .inf s, .fin t _ => F.pack (s ^^ t) F.infBits
  | .fin s _, .inf t => F.pack (s ^^ t) 0
  | .nan, _ => F.qnan
  | _, .nan => F.qnan

/-- Where a datum lies on the line of values, in units of the least subnormal; infinities lie past every finite
value, and a NaN has no place. -/
def Format.place (F : Format) (b : Nat) : Option Int :=
  match F.datum b with
  | .nan => none
  | .inf neg => some (signed neg (2 ^ (2 ^ F.expBits + F.fracBits)))
  | .fin neg mag => some (signed neg mag)

/-- IEEE less-or-equal: false when an operand is a NaN (42_engine.md R182). -/
def Format.le (F : Format) (a b : Nat) : Bool :=
  match F.place a, F.place b with
  | some x, some y => decide (x ≤ y)
  | _, _ => false

/-- IEEE less-than: false when an operand is a NaN. -/
def Format.lt (F : Format) (a b : Nat) : Bool :=
  match F.place a, F.place b with
  | some x, some y => decide (x < y)
  | _, _ => false

/-- Neither an infinity nor a NaN. -/
def Format.isFinite (F : Format) (b : Nat) : Bool :=
  match F.datum b with
  | .fin _ _ => true
  | _ => false

/-- The magnitude of a finite value in units of the least subnormal; 0 for a value that is not finite. -/
def Format.mag (F : Format) (b : Nat) : Nat :=
  match F.datum b with
  | .fin _ m => m
  | _ => 0

/-- The integer square root of n below 2^bits, bit by bit from the top. -/
def isqrtFrom (n : Nat) : Nat → Nat → Nat
  | 0, r => r
  | bit + 1, r => isqrtFrom n bit (if (r + 2 ^ bit) * (r + 2 ^ bit) ≤ n then r + 2 ^ bit else r)

/-- The integer square root: the largest r with r * r ≤ n. -/
def isqrt (n : Nat) : Nat := isqrtFrom n (Nat.log2 n / 2 + 1) 0

/-- IEEE square root. The root of the magnitude, in units, has more bits than any format keeps, so its integer
part and whether something is left below it decide the rounding. -/
def Format.sqrt (F : Format) (a : Nat) : Nat :=
  match F.datum a with
  | .fin neg m =>
    if m = 0 then F.pack neg 0
    else if neg then F.qnan
    else
      let n := 2 ^ F.unitExp * m
      let r := isqrt n
      F.round false (2 * r + (if r * r = n then 0 else 1)) 2
  | .inf false => F.infBits
  | _ => F.qnan

/-- The fraction bits that `sinSeries` works with below the least binary64 subnormal. -/
def sinGuard : Nat := 128

/-- The Taylor series of the sine of X / 2^prec from the term `term` = x^(2n-1) / (2n-1)!, whose sign alternates;
it stops when a term vanishes at the working precision. The result is the sum of the positive terms and the
sum of the negative ones. -/
def sinSeries (prec xsq : Nat) : Nat → Nat → Nat → Bool → Nat → Nat → Nat × Nat
  | 0, _, _, _, pos, neg => (pos, neg)
  | fuel + 1, n, term, minus, pos, neg =>
    if term = 0 then (pos, neg)
    else
      let next := term * xsq / 2 ^ (2 * prec) / ((2 * n) * (2 * n + 1))
      if minus then sinSeries prec xsq fuel (n + 1) next false pos (neg + term)
      else sinSeries prec xsq fuel (n + 1) next true (pos + term) neg

/-- The binary64 sine, rounded to nearest (40_filter_design.md R135; notes/assumptions/6.md). -/
def f64SinNat (a : Nat) : Nat :=
  match binary64.datum a with
  | .fin neg m =>
    let x := 2 ^ sinGuard * m
    let terms := 1000 + 8 * (m / 2 ^ binary64.unitExp)
    let (p, q) := sinSeries (binary64.unitExp + sinGuard) (x * x) terms 1 x false 0 0
    if q ≤ p then binary64.round neg (p - q) (2 ^ sinGuard)
    else binary64.round (!neg) (q - p) (2 ^ sinGuard)
  | _ => binary64.qnan

/-- a ⊕ b: binary32 addition (00_scope.md R12). -/
def f32Add (a b : Sample) : Sample := BitVec.ofNat 32 (binary32.add a.toNat b.toNat)

/-- a ⊖ b: binary32 subtraction (00_scope.md R12). -/
def f32Sub (a b : Sample) : Sample := BitVec.ofNat 32 (binary32.sub a.toNat b.toNat)

/-- a ⊗ b: binary32 multiplication (00_scope.md R12). -/
def f32Mul (a b : Sample) : Sample := BitVec.ofNat 32 (binary32.mul a.toNat b.toNat)

/-- neg(a): the sign bit flipped (00_scope.md R12). -/
def f32Neg (a : Sample) : Sample := BitVec.ofNat 32 (binary32.neg a.toNat)

/-- f32(num/den) for a non-negative rational (00_scope.md R12). -/
def f32OfRatio (num den : Nat) : Sample :=
  BitVec.ofNat 32 (binary32.roundMag (2 ^ binary32.unitExp * num) den)

/-- f32 of a binary64 (00_scope.md R12). -/
def f32OfF64 (a : F64) : Sample :=
  match binary64.datum a.toNat with
  | .fin neg m =>
    BitVec.ofNat 32 (binary32.round neg (2 ^ binary32.unitExp * m) (2 ^ binary64.unitExp))
  | .inf neg => BitVec.ofNat 32 (binary32.pack neg binary32.infBits)
  | .nan => BitVec.ofNat 32 binary32.qnan

/-- The binary32 pattern of 1.0: LPSCL in UP mode (41_filter_kernel.md R153). -/
def Sample.one : Sample := 0x3F800000#32

/-- binary64 addition. -/
def f64Add (a b : F64) : F64 := BitVec.ofNat 64 (binary64.add a.toNat b.toNat)

/-- binary64 subtraction. -/
def f64Sub (a b : F64) : F64 := BitVec.ofNat 64 (binary64.sub a.toNat b.toNat)

/-- binary64 multiplication. -/
def f64Mul (a b : F64) : F64 := BitVec.ofNat 64 (binary64.mul a.toNat b.toNat)

/-- binary64 division. -/
def f64Div (a b : F64) : F64 := BitVec.ofNat 64 (binary64.div a.toNat b.toNat)

/-- binary64 square root. -/
def f64Sqrt (a : F64) : F64 := BitVec.ofNat 64 (binary64.sqrt a.toNat)

/-- binary64 sine. -/
def f64Sin (a : F64) : F64 := BitVec.ofNat 64 (f64SinNat a.toNat)

/-- binary64 comparison a ≤ b. -/
def f64Le (a b : F64) : Bool := binary64.le a.toNat b.toNat

/-- binary64 comparison a < b. -/
def f64Lt (a b : F64) : Bool := binary64.lt a.toNat b.toNat

/-- Whether a binary64 is finite. -/
def f64Finite (a : F64) : Bool := binary64.isFinite a.toNat

/-- max(a, b) of two binary64 values (42_engine.md R181). -/
def f64Max (a b : F64) : F64 := if f64Lt a b then b else a

/-- float(n): a natural as binary64 (42_engine.md R181). -/
def f64OfNat (n : Nat) : F64 :=
  BitVec.ofNat 64 (binary64.roundMag (2 ^ binary64.unitExp * n) 1)

/-- floor of a finite binary64 that is not negative (42_engine.md R181). -/
def f64Floor (a : F64) : Nat := binary64.mag a.toNat / 2 ^ binary64.unitExp

end Sys2Proof.Machine
end

