-- ==== Sys2Proof/Machine/State.lean ====
section
/-! DEFINITION. The state of the block and of what stands at its pins (spec/10_state.md; INVENTORY.md lists
every field with its rule and reset value). -/

namespace Sys2Proof.Machine

/-- The cause of an internal-invariant fault (60_exceptions.md R238). -/
inductive FaultCause where
  /-- A read or write out of range, or of an unwritten word: FAULT_CAUSE 1. -/
  | range
  /-- A write past the end of Y: FAULT_CAUSE 2. -/
  | yovf
  deriving DecidableEq, Repr

/-- The outcome codes of STATUS.ERR (60_exceptions.md R232). -/
inductive ErrCode where
  | ok
  | badCmd
  | notConfigured
  | bounds
  | quality
  | capacity
  | factor
  | exhausted
  | fault
  deriving DecidableEq, Repr

/-- The engine states of STATUS.STATE (10_state.md R64). -/
inductive EngineState where
  | unconfigured
  | awaitingInput
  | draining
  | exhausted
  | filtering
  | configuring
  | faulted
  deriving DecidableEq, Repr

/-- A memory of binary32 words: the written words with their indices, in strictly rising order. A word not
listed is unwritten (20_memory.md R83, R85; notes/assumptions/13.md). -/
abbrev Memory := List (Nat × Sample)

/-- What the platform does to the block, in arrival order (20_memory.md R90; notes/assumptions/1.md).
Widths and addresses are in bytes; an address is one of the host's address space, in which the window begins at
REG_BASE (20_memory.md R80). -/
inductive HostEvent where
  /-- A register-bus read (20_memory.md R76). -/
  | read (width address : Nat)
  /-- A register-bus write (20_memory.md R76). -/
  | write (width address : Nat) (value : Word)
  /-- The host changes the samples it presents on the input port (20_memory.md R87). -/
  | offer (samples : List Sample)
  /-- The host changes how many more samples the output port accepts; `none` is as many as come
  (70_reset_and_hazards.md R276; notes/assumptions/9.md). -/
  | accept (ready : Option Nat)
  /-- The platform asserts the reset input (70_reset_and_hazards.md R261). -/
  | reset
  deriving DecidableEq, Repr

/-- How the block answered the last register access (20_memory.md R76, 60_exceptions.md R241). -/
inductive BusAnswer where
  | value (v : Word)
  | written
  | busError
  deriving DecidableEq, Repr

/-- The whole machine. -/
structure State where
  /-- The build parameters and the ROM (00_scope.md R7). No step changes them (notes/assumptions/2.md). -/
  params : Params
  /-- OP_MIN_FACTOR (10_state.md R41). -/
  opMinFactor : F64
  /-- OP_MAX_FACTOR (10_state.md R42). -/
  opMaxFactor : F64
  /-- OP_FACTOR (10_state.md R43). -/
  opFactor : F64
  /-- OP_IN_COUNT[31:0] (10_state.md R44). -/
  opInCount : BitVec 32
  /-- OP_OUT_ROOM[31:0] (10_state.md R45). -/
  opOutRoom : BitVec 32
  /-- RES_IN_USED[31:0] (10_state.md R46). -/
  resInUsed : BitVec 32
  /-- RES_OUT_WRITTEN[31:0] (10_state.md R47). -/
  resOutWritten : BitVec 32
  /-- STATUS.CONFIGURED (10_state.md R34). -/
  configured : Bool
  /-- The command that runs; STATUS.BUSY is 1 when there is one (10_state.md R35). -/
  running : Option Instr
  /-- STATUS.NO_PROGRESS (10_state.md R36). -/
  noProgress : Bool
  /-- STATUS.FLUSHED (10_state.md R37). -/
  flushed : Bool
  /-- STATUS.FAULT and STATUS.FAULT_CAUSE together (10_state.md R38; notes/assumptions/20.md). -/
  fault : Option FaultCause
  /-- STATUS.OVERRUN (10_state.md R39). -/
  overrun : Bool
  /-- STATUS.ERR (10_state.md R40). -/
  err : ErrCode
  /-- CFG.QUALITY (10_state.md R48). -/
  cfgQuality : Quality
  /-- CFG.INTERP (10_state.md R48). -/
  cfgInterp : Bool
  /-- CFG_MIN_FACTOR (10_state.md R49). -/
  cfgMinFactor : F64
  /-- CFG_MAX_FACTOR (10_state.md R49). -/
  cfgMaxFactor : F64
  /-- XOFF[31:0] (10_state.md R50). -/
  xoff : BitVec 32
  /-- XSIZE[31:0] (10_state.md R50). -/
  xsize : BitVec 32
  /-- YSIZE[31:0] (10_state.md R50). -/
  ysize : BitVec 32
  /-- NWING[31:0] (10_state.md R50). -/
  nwing : BitVec 32
  /-- TIME, UQ32.32 (10_state.md R52). -/
  time : Word
  /-- XP[31:0] (10_state.md R53). -/
  xp : BitVec 32
  /-- XREAD[31:0] (10_state.md R54). -/
  xread : BitVec 32
  /-- YP[31:0] (10_state.md R55). -/
  yp : BitVec 32
  /-- The input-buffer memory X (10_state.md R58). -/
  x : Memory
  /-- The output-buffer memory Y (10_state.md R59). -/
  y : Memory
  /-- The samples the host presents on the input port, next first (20_memory.md R87). -/
  inPort : List Sample
  /-- The samples delivered on the output port, oldest first (20_memory.md R88). -/
  outPort : List Sample
  /-- How many more samples the output port accepts before a PROCESS must wait; `none` is as many as come
  (70_reset_and_hazards.md R276; notes/assumptions/9.md). -/
  outReady : Option Nat
  /-- The host's accesses and other events not yet served, oldest first (20_memory.md R90). -/
  bus : List HostEvent
  /-- The answer to the last register access served (20_memory.md R76). -/
  answer : Option BusAnswer
  /-- For how many steps each of the next commands stays BUSY; no entry means 0 (93_implementation_defined.md
  U12; notes/assumptions/7.md). -/
  latencies : List Nat
  /-- For how many more steps the running command stays BUSY before it completes. -/
  busyLeft : Nat
  /-- How many unspecified values the run has used: the number of the next one (notes/assumptions/12.md). -/
  freeCount : Nat
  deriving DecidableEq, Repr

/-- Reasons for the machine to stop: none. Every command completes with a code in STATUS.ERR
(60_exceptions.md R230, 70_reset_and_hazards.md R275), a refused access is answered on the bus (R241), and the
block's own sticky fault (R238) is a next state in which it goes on answering. Having no constructor is safe: it
is a promise the types check, not a behaviour left out. -/
inductive Fault where
  deriving DecidableEq, Repr

/-- Reasons for the model to have no meaning for a command. -/
inductive Refusal where
  /-- Raised by an arm of `exec` for an instruction that has no meaning yet; no arm does. Safe: the run stops. -/
  | notModelled (mnemonic : String)
  deriving DecidableEq, Repr

/-- The machine right after reset (70_reset_and_hazards.md R260, reset values of 10_state.md R32), built with the
default parameters, with nothing pending at its pins. -/
def State.reset : State where
  params := Params.default
  opMinFactor := F64.one
  opMaxFactor := F64.one
  opFactor := F64.one
  opInCount := 0#32
  opOutRoom := 0#32
  resInUsed := 0#32
  resOutWritten := 0#32
  configured := false
  running := none
  noProgress := false
  flushed := false
  fault := none
  overrun := false
  err := .ok
  cfgQuality := .fast
  cfgInterp := false
  cfgMinFactor := 0#64
  cfgMaxFactor := 0#64
  xoff := 0#32
  xsize := 0#32
  ysize := 0#32
  nwing := 0#32
  time := 0#64
  xp := 0#32
  xread := 0#32
  yp := 0#32
  x := []
  y := []
  inPort := []
  outPort := []
  outReady := none
  bus := []
  answer := none
  latencies := []
  busyLeft := 0
  freeCount := 0

end Sys2Proof.Machine
end

