-- ==== Sys2Proof/Machine/Rom.lean ====
section
/-! DEFINITION. The coefficient ROM: the default generator, the tables IMP and IMPD, and which instantiations are
valid (spec/40_filter_design.md R130 to R138, spec/00_scope.md R8). -/

namespace Sys2Proof.Machine

/-- The binary64 nearest to pi (40_filter_design.md R135). -/
def f64Pi : F64 := 0x400921FB54442D18#64

/-- The binary64 constants of 40_filter_design.md R135 and R136. -/
def f64Two : F64 := 0x4000000000000000#64

/-- 0.5 as binary64. -/
def f64Half : F64 := 0x3FE0000000000000#64

/-- The stopping constant 1e-21 of 40_filter_design.md R136. -/
def besselStop : F64 := 0x3B92E3B40A0E9B4F#64

/-- The binary64 +infinity. -/
def f64Inf : F64 := 0x7FF0000000000000#64

/-- The binary64 canonical quiet NaN. -/
def f64Nan : F64 := 0x7FF8000000000000#64

/-- The loop of I0: `repeat … until not (u >= 1e-21 * sum)` (40_filter_design.md R136). A term that overflows makes u
and sum +infinity, and the loop test then holds until temp * temp is 0, some 2^540 rounds later; u and sum become NaN
there and the loop ends. The model answers that NaN at once (DEDUCED, unsafe: notes/assumptions/28.md). -/
def besselLoop (halfx : F64) : Nat → Nat → F64 → F64 → F64
  | 0, _, _, sum => sum
  | fuel + 1, n, u, sum =>
    let temp := f64Div halfx (f64OfNat n)
    let u' := f64Mul u (f64Mul temp temp)
    let sum' := f64Add sum u'
    if u' = f64Inf then f64Nan
    else if f64Le (f64Mul besselStop sum') u' then besselLoop halfx fuel (n + 1) u' sum' else sum'

/-- I0(x), the modified Bessel function of order 0 (40_filter_design.md R136), for a finite x that is not negative. The
bound does not end the loop: the terms grow until n = x/2, so one that overflows does so before; and from n = 2x on they
shrink sixteenfold and more, so that 64 of them pass 1e-21 (DEDUCED: notes/assumptions/15.md; nothing proves it). -/
def besselI0 (x : F64) : F64 :=
  besselLoop (f64Div x f64Two) (64 + 4 * f64Floor x) 1 F64.one F64.one

/-- Coefficient i of `design(N, frq, beta, npc)` before the rounding to binary32 (40_filter_design.md R135). -/
def designCoeff (N : Nat) (frq beta : F64) (npc i : Nat) : F64 :=
  if i = 0 then f64Mul f64Two frq
  else
    let t := f64Div (f64Mul f64Pi (f64OfNat i)) (f64OfNat npc)
    let sinc := f64Div (f64Sin (f64Mul (f64Mul f64Two t) frq)) t
    let u := f64Mul (f64OfNat i) (f64Div F64.one (f64OfNat (N - 1)))
    let w := f64Sub F64.one (f64Mul u u)
    let w2 := if f64Lt w 0#64 then 0#64 else w
    f64Mul sinc (f64Mul (besselI0 (f64Mul beta (f64Sqrt w2))) (f64Div F64.one (besselI0 beta)))

/-- A positive finite binary64: what a generator's parameter must be (40_filter_design.md R134). -/
def f64Positive (a : F64) : Bool := f64Finite a && f64Lt 0#64 a

end Sys2Proof.Machine

namespace Sys2Proof

open Sys2Proof.Machine

/-- The normalized cutoff 0.5 * ROLLOFF (00_scope.md R7). -/
def Params.cutoff (p : Params) : F64 := f64Mul f64Half p.rolloff

/-- IMP_q[h], absent out of range (40_filter_design.md R130, R134, R135; 20_memory.md R86). -/
def Params.imp (p : Params) (q : Quality) (h : Nat) : Option Sample :=
  if h < p.nwing q then
    match p.image q with
    | .generated => some (f32OfF64 (designCoeff (p.nwing q) p.cutoff p.beta p.npc h))
    | .table entries => entries[h]?
  else none

/-- IMPD_q[h], absent out of range (40_filter_design.md R131). -/
def Params.impd (p : Params) (q : Quality) (h : Nat) : Option Sample :=
  if h + 1 = p.nwing q then (p.imp q h).map f32Neg
  else match p.imp q (h + 1), p.imp q h with
    | some next, some here => some (f32Sub next here)
    | _, _ => none

/-- Every coefficient of a tier is a finite binary32 and the table has NWING_q of them (00_scope.md R8 (4)). Nothing is
asked of IMPD, whose differences may overflow (DEDUCED, unsafe: notes/assumptions/30.md). -/
def Params.romFinite (p : Params) (q : Quality) : Bool :=
  (List.range (p.nwing q)).all fun h =>
    match p.imp q h with
    | some c => binary32.isFinite c.toNat
    | none => false

/-- A generated image is made from positive, finite parameters (40_filter_design.md R134). -/
def Params.designable (p : Params) (q : Quality) : Bool :=
  match p.image q with
  | .generated => f64Positive p.cutoff && f64Positive p.beta
  | .table _ => true

/-- The constraints of 00_scope.md R8 on one tier's lengths: (2) and (3). -/
def Params.tierSized (p : Params) (q : Quality) : Bool :=
  decide (p.nmult q % 2 = 1) && decide (3 ≤ p.nmult q) &&
  decide (2 ≤ p.nwing q) && decide (2 * p.nwing q ≤ p.npc * (p.nmult q - 1))

/-- The constraints of 00_scope.md R8 on numbers: (1), (2), (3), (5) and (6). Constraint (5) asks YSIZE_PAD to be at
least 2.0 and not to be finite, so +infinity passes, and every CONFIG of such an instance ends in ERR_CAPACITY (DEDUCED,
safe: notes/assumptions/27.md). -/
def Params.sized (p : Params) : Bool :=
  decide (1 ≤ p.k) && decide (p.k ≤ 20) && p.tierSized .fast && p.tierSized .high &&
  decide (1 ≤ p.xoffPad) && decide (1 ≤ p.xsizePad) && decide (1 ≤ p.xsizeMin) &&
  f64Le f64Two p.ysizePad &&
  decide (p.xCap ≤ 2 ^ 31 - 1) && decide (p.yCap ≤ 2 ^ 32 - 1)

/-- All of 00_scope.md R8, and the generator's own refusals of 40_filter_design.md R134. -/
def Params.valid (p : Params) : Bool :=
  p.sized && p.designable .fast && p.designable .high && p.romFinite .fast && p.romFinite .high

end Sys2Proof
end

