-- ==== Sys2Proof/Machine/Operands.lean ====
section
/-! DEFINITION. The operands of PROCESS and the values it computes from them once per call
(spec/30_encoding.md R107, spec/42_engine.md R188, R190, spec/41_filter_kernel.md R151 to R153). -/

namespace Sys2Proof.Machine

/-- The kernel mode of one PROCESS (41_filter_kernel.md R151). -/
inductive Mode where
  | up
  | ud
  deriving DecidableEq, Repr

/-- MODE: UP when the factor is at least 1.0 (41_filter_kernel.md R151). -/
def modeOf (f : F64) : Mode := if f64Le F64.one f then .up else .ud

/-- The magnitude of a binary64 factor as a rational: `factorNum f / factorDen` (41_filter_kernel.md R152). -/
def factorNum (f : F64) : Nat := binary64.mag f.toNat

/-- The denominator of `factorNum`. -/
def factorDen : Nat := 2 ^ binary64.unitExp

/-- DH = min(NPC * 2^32, RNE(f * NPC * 2^32)) as UQ32.32 (41_filter_kernel.md R152). -/
def tableStep (npc : Nat) (f : F64) : Nat :=
  min (2 ^ 32 * npc) (rneDiv (2 ^ 32 * npc * factorNum f) factorDen)

/-- LPSCL (41_filter_kernel.md R153). -/
def gainOf (f : F64) : Sample :=
  match modeOf f with
  | .up => Sample.one
  | .ud => f32OfF64 f

/-- DT = RNE(2^32 / f) as UQ32.32 (42_engine.md R190). -/
def timeStep (f : F64) : Nat := rneDiv (2 ^ 32 * factorDen) (factorNum f)

/-- What stays constant during one PROCESS. -/
structure Call where
  params : Params
  quality : Quality
  interp : Bool
  xoff : Nat
  xsize : Nat
  ysize : Nat
  nwing : Nat
  /-- The offer length n, OP_IN_COUNT[31:0]. -/
  n : Nat
  /-- The output room, OP_OUT_ROOM[31:0]. -/
  room : Nat
  /-- What the host presents on the input port. -/
  offer : List Sample
  /-- How many samples the output port accepts; `none` is as many as come. -/
  ready : Option Nat
  last : Bool
  mode : Mode
  dh : Nat
  lpscl : Sample
  dt : Nat
  deriving DecidableEq, Repr

/-- The operands of a PROCESS started in state `s` (30_encoding.md R107, 42_engine.md R188, R190). -/
def State.call (s : State) (last : Bool) : Call where
  params := s.params
  quality := s.cfgQuality
  interp := s.cfgInterp
  xoff := s.xoff.toNat
  xsize := s.xsize.toNat
  ysize := s.ysize.toNat
  nwing := s.nwing.toNat
  n := s.opInCount.toNat
  room := s.opOutRoom.toNat
  offer := s.inPort
  ready := s.outReady
  last := last
  mode := modeOf s.opFactor
  dh := tableStep s.params.npc s.opFactor
  lpscl := gainOf s.opFactor
  dt := timeStep s.opFactor

/-- The words of X in use: XSIZE + XOFF (10_state.md R50, R58). -/
def Call.limit (c : Call) : Nat := c.xsize + c.xoff

/-- InRead(k): sample k of the offer; absent while the host has not presented it yet (20_memory.md R87,
70_reset_and_hazards.md R276). -/
def Call.inRead (c : Call) (k : Nat) : Option Sample := if k < c.n then c.offer[k]? else none

/-- Whether the output port accepts OutWrite number k of this PROCESS (70_reset_and_hazards.md R276). -/
def Call.accepts (c : Call) (k : Nat) : Bool :=
  match c.ready with
  | none => true
  | some r => decide (k < r)

end Sys2Proof.Machine
end

