-- ==== Sys2Proof/Machine/Ops.lean ====
section
/-! DEFINITION. The named operations commands are built from: the memories X and Y, the outcome primitives
(spec/00_scope.md R14 to R16, spec/20_memory.md R83 to R88), the byte form of the ports (R77), and the taking of an error
or of the sticky fault (spec/60_exceptions.md R230, R238, R239). -/

namespace Sys2Proof.Machine

/-- Word i of a memory; absent when it is unwritten (20_memory.md R83). -/
def Memory.read : Memory → Nat → Option Sample
  | [], _ => none
  | (j, w) :: rest, i => if j = i then some w else Memory.read rest i

/-- Storing a word marks it written and keeps the indices rising (20_memory.md R84). -/
def Memory.write : Memory → Nat → Sample → Memory
  | [], i, v => [(i, v)]
  | (j, w) :: rest, i, v =>
    if i < j then (i, v) :: (j, w) :: rest
    else if i = j then (i, v) :: rest
    else (j, w) :: Memory.write rest i v

/-- The canonical form of a memory: indices strictly rising, so no word has two entries. -/
abbrev Memory.wf (m : Memory) : Prop := m.Pairwise fun a b => a.1 < b.1

/-- A memory whose words 0 to n-1 hold +0.0 and whose other words are unwritten: what CONFIG leaves in X
(42_engine.md R181, R186). -/
def Memory.zeros (n : Nat) : Memory := (List.range n).map fun k => (k, Sample.zero)

/-- A memory of `cap` words of which the n-th unspecified content is all that is known (60_exceptions.md R239). -/
def Memory.unspecified (n cap : Nat) : Memory :=
  (List.range cap).filterMap fun i => (Config.freeCell n i).map fun v => (i, v)

/-- One port transfer of a PROCESS: a sample taken from the input port, or one delivered on the output port
(20_memory.md R87, R88). -/
inductive Transfer where
  | input
  | output (v : Sample)
  deriving DecidableEq, Repr

/-- How many transfers took a sample from the input port. -/
def inputsOf (moves : List Transfer) : Nat := moves.countP fun m => m == .input

/-- The samples that transfers delivered on the output port, in order. -/
def outputsOf (moves : List Transfer) : List Sample :=
  moves.filterMap fun m =>
    match m with
    | .input => none
    | .output v => some v

/-- What PROCESS works on: the streaming state and the memories, the local `nout`, and the port transfers made so far
in the order they were made (20_memory.md R90), which give the locals `used` and `written` (42_engine.md R188). -/
structure Work where
  x : Memory
  y : Memory
  time : Nat
  xp : Nat
  xread : Nat
  yp : Nat
  flushed : Bool
  nout : Nat
  moves : List Transfer
  deriving DecidableEq, Repr

/-- The local `used`: how many samples of the offer this PROCESS has taken (42_engine.md R192). -/
def Work.used (w : Work) : Nat := inputsOf w.moves

/-- The samples this PROCESS has delivered, in order (20_memory.md R88). -/
def Work.out (w : Work) : List Sample := outputsOf w.moves

/-- The local `written`: how many samples this PROCESS has delivered (42_engine.md R187). -/
def Work.written (w : Work) : Nat := w.out.length

/-- The streaming state a PROCESS starts from. -/
def State.work (s : State) : Work where
  x := s.x
  y := s.y
  time := s.time.toNat
  xp := s.xp.toNat
  xread := s.xread.toNat
  yp := s.yp.toNat
  flushed := s.flushed
  nout := 0
  moves := []

/-- How a part of PROCESS ends (00_scope.md R16): it goes on, a fault ends the command, or a port makes it wait
(70_reset_and_hazards.md R276). -/
inductive Run where
  | done (w : Work)
  | fault (cause : FaultCause) (w : Work)
  | stall (w : Work)
  deriving DecidableEq, Repr

/-- Sequencing: the next part runs when the first one is done. -/
def Run.andThen : Run → (Work → Run) → Run
  | .done w, f => f w
  | .fault c w, _ => .fault c w
  | .stall w, _ => .stall w

/-- The work a run got to, however it ended. -/
def Run.reached : Run → Work
  | .done w => w
  | .fault _ w => w
  | .stall w => w

/-- `for k in [first, first + count)` in ascending order (00_scope.md R16). -/
def forRange (body : Nat → Work → Run) : (first count : Nat) → Work → Run
  | _, 0, w => .done w
  | first, count + 1, w => (body first w).andThen (forRange body (first + 1) count)

/-- XRead(i): absent stands for Fault(FAULT_RANGE) (20_memory.md R83). -/
def xRead (c : Call) (x : Memory) (i : Int) : Option Sample :=
  if 0 ≤ i ∧ i < c.limit then x.read i.toNat else none

/-- XWrite(i, v) (20_memory.md R84). -/
def xWrite (c : Call) (i : Nat) (v : Sample) (w : Work) : Run :=
  if i < c.limit then .done { w with x := w.x.write i v } else .fault .range w

/-- YRead(i): absent stands for Fault(FAULT_RANGE) (20_memory.md R85). -/
def yRead (c : Call) (y : Memory) (i : Nat) : Option Sample :=
  if i < c.ysize then y.read i else none

/-- YWrite(i, v) (20_memory.md R85). -/
def yWrite (c : Call) (i : Nat) (v : Sample) (w : Work) : Run :=
  if i < c.ysize then .done { w with y := w.y.write i v } else .fault .yovf w

/-- XWrite(dst, XRead(src)). -/
def xCopy (c : Call) (dst src : Nat) (w : Work) : Run :=
  match xRead c w.x src with
  | some v => xWrite c dst v w
  | none => .fault .range w

/-- YWrite(dst, YRead(src)). -/
def yCopy (c : Call) (dst src : Nat) (w : Work) : Run :=
  match yRead c w.y src with
  | some v => yWrite c dst v w
  | none => .fault .range w

/-- OutWrite(YRead(src)) (20_memory.md R88). A port that does not accept the sample makes the command wait
(70_reset_and_hazards.md R276; notes/assumptions/9.md). -/
def outWrite (c : Call) (src : Nat) (w : Work) : Run :=
  match yRead c w.y src with
  | some v => if c.accepts w.written then .done { w with moves := w.moves ++ [.output v] } else .stall w
  | none => .fault .range w

/-- `raise Err(code)`: the command ends, and only STATUS.ERR says so (00_scope.md R16, 60_exceptions.md R230). -/
def State.raiseErr (code : ErrCode) (s : State) : State := { s with err := code, running := none }

/-- Port transfers take place, in their order: the samples taken leave the input port, the samples delivered stand on
the output port, which accepts so many fewer from now on (20_memory.md R87, R88). -/
def State.movePorts (moves : List Transfer) (s : State) : State :=
  { s with
    inPort := s.inPort.drop (inputsOf moves)
    outPort := s.outPort ++ outputsOf moves
    outReady := s.outReady.map fun r => r - (outputsOf moves).length }

/-- `raise Fault(cause)`: the command ends with the sticky fault (60_exceptions.md R238, R240). The port transfers
made before it stay made, and what R239 leaves unspecified takes free values (notes/assumptions/12.md). -/
def State.raiseFault (cause : FaultCause) (w : Work) (s : State) : State :=
  { s.movePorts w.moves with
    running := none
    fault := some cause
    err := .fault
    resInUsed := (Config.freeWord s.freeCount).setWidth 32
    resOutWritten := (Config.freeWord (s.freeCount + 1)).setWidth 32
    noProgress := (Config.freeWord (s.freeCount + 2)).getLsbD 0
    flushed := (Config.freeWord (s.freeCount + 3)).getLsbD 0
    time := Config.freeWord (s.freeCount + 4)
    xp := (Config.freeWord (s.freeCount + 5)).setWidth 32
    xread := (Config.freeWord (s.freeCount + 6)).setWidth 32
    yp := (Config.freeWord (s.freeCount + 7)).setWidth 32
    x := Memory.unspecified s.freeCount s.params.xCap
    y := Memory.unspecified (s.freeCount + 1) s.params.yCap
    freeCount := s.freeCount + 8 }

/-- `done` and `finish` of PROCESS: the results, the streaming state, ERR = OK (42_engine.md R203). -/
def State.finishProcess (w : Work) (s : State) : State :=
  { s.movePorts w.moves with
    running := none
    err := .ok
    resInUsed := BitVec.ofNat 32 w.used
    resOutWritten := BitVec.ofNat 32 w.written
    noProgress := decide (w.used = 0 ∧ w.written = 0)
    flushed := w.flushed
    time := BitVec.ofNat 64 w.time
    xp := BitVec.ofNat 32 w.xp
    xread := BitVec.ofNat 32 w.xread
    yp := BitVec.ofNat 32 w.yp
    x := w.x
    y := w.y }

/-- A command waits on a port: BUSY stays 1 and nothing else has changed yet (70_reset_and_hazards.md R276). -/
def State.waitPort (i : Instr) (s : State) : State := { s with running := some i, busyLeft := 0 }

/-- The four bytes of a sample in the order a port that is carried as bytes transfers them: byte k is bits [8k+7:8k]
(20_memory.md R77). -/
def bytesOfSample (v : Sample) : List Byte :=
  (List.range 4).map fun k => BitVec.ofNat 8 (v.toNat / 2 ^ (8 * k))

/-- The bytes of a sequence of samples on a port that is carried as bytes (20_memory.md R77). -/
def bytesOfSamples (samples : List Sample) : List Byte := samples.flatMap bytesOfSample

/-- The samples that the bytes of a port spell; absent when the bytes end inside a sample (20_memory.md R77). -/
def samplesOfBytes : List Byte → Option (List Sample)
  | [] => some []
  | b0 :: b1 :: b2 :: b3 :: rest =>
    (samplesOfBytes rest).map fun later => BitVec.ofNat 32 (natOfBytes [b0, b1, b2, b3]) :: later
  | _ => none

/-- The input port as bytes, the next byte to transfer first (20_memory.md R77). -/
def State.inPortBytes (s : State) : List Byte := bytesOfSamples s.inPort

/-- The output port as bytes, the first byte delivered first (20_memory.md R77). -/
def State.outPortBytes (s : State) : List Byte := bytesOfSamples s.outPort

end Sys2Proof.Machine
end

