-- ==== Sys2Proof/Machine/Configure.lean ====
section
/-! DEFINITION. CONFIG (spec/42_engine.md R181 to R186). -/

namespace Sys2Proof.Machine

/-- The bounds check (42_engine.md R182). -/
def boundsOk (a b : F64) : Bool :=
  f64Finite a && f64Finite b && f64Lt 0#64 a && f64Lt 0#64 b && f64Le a b

/-- The tier a QUALITY value selects; absent for an unsupported one (42_engine.md R183, 40_filter_design.md R138). -/
def tierOf : Nat → Option Quality
  | 0 => some .fast
  | 1 => some .high
  | _ => none

/-- The sizes CONFIG computes (42_engine.md R184). -/
structure Sizes where
  xoff : Nat
  xsize : Nat
  ysize : Nat
  deriving DecidableEq, Repr

/-- `xo` of 42_engine.md R181: ((NMULT + 1) / 2) * max(1, 1 / minF) + XOFF_PAD in binary64. -/
def xoffReal (p : Params) (q : Quality) (a : F64) : F64 :=
  let half := f64Div (f64OfNat (1 + p.nmult q)) f64Two
  f64Add (f64Mul half (f64Max F64.one (f64Div F64.one a))) (f64OfNat p.xoffPad)

/-- `ys` of 42_engine.md R181: XSIZE * maxF + YSIZE_PAD in binary64. -/
def ysizeReal (p : Params) (xsize : Nat) (b : F64) : F64 :=
  f64Add (f64Mul (f64OfNat xsize) b) p.ysizePad

/-- Buffer sizing; absent when the sizes exceed the memories, which is ERR_CAPACITY (42_engine.md R181, R184). -/
def sizesFor (p : Params) (q : Quality) (a b : F64) : Option Sizes :=
  let xo := xoffReal p q a
  if f64Lt xo (f64OfNat p.xCap) = false then none
  else
    let xoff := f64Floor xo
    let xsize := max (2 * xoff + p.xsizePad) p.xsizeMin
    if p.xCap < xsize + xoff then none
    else
      let ys := ysizeReal p xsize b
      if f64Lt ys (f64Add (f64OfNat p.yCap) F64.one) = false then none
      else some { xoff, xsize, ysize := f64Floor ys }

/-- The commit of a successful CONFIG: a fresh stream (42_engine.md R181, R186). -/
def State.startStream (q : Quality) (interp : Bool) (z : Sizes) (s : State) : State :=
  { s with
    running := none
    err := .ok
    configured := true
    flushed := false
    noProgress := false
    cfgQuality := q
    cfgInterp := interp
    cfgMinFactor := s.opMinFactor
    cfgMaxFactor := s.opMaxFactor
    xoff := BitVec.ofNat 32 z.xoff
    xsize := BitVec.ofNat 32 z.xsize
    ysize := BitVec.ofNat 32 z.ysize
    nwing := BitVec.ofNat 32 (s.params.nwing q)
    x := Memory.zeros z.xoff
    y := []
    time := BitVec.ofNat 64 (2 ^ 32 * z.xoff)
    xp := BitVec.ofNat 32 z.xoff
    xread := BitVec.ofNat 32 z.xoff
    yp := 0#32
    resInUsed := 0#32
    resOutWritten := 0#32 }

/-- `fail(code)` of 42_engine.md R181: the configuration and the stream are discarded (R185). -/
def State.failConfig (code : ErrCode) (s : State) : State :=
  { s with
    running := none
    err := code
    configured := false
    flushed := false
    cfgQuality := .fast
    cfgInterp := false
    cfgMinFactor := 0#64
    cfgMaxFactor := 0#64
    xoff := 0#32
    xsize := 0#32
    ysize := 0#32
    nwing := 0#32
    x := []
    y := []
    time := 0#64
    xp := 0#32
    xread := 0#32
    yp := 0#32 }

/-- What CONFIG decides, in the order of 60_exceptions.md R236: a code of refusal, or the tier and the sizes. -/
def configOutcome (quality : Nat) (s : State) : Except ErrCode (Quality × Sizes) :=
  if boundsOk s.opMinFactor s.opMaxFactor = false then .error .bounds
  else match tierOf quality with
    | none => .error .quality
    | some q =>
      match sizesFor s.params q s.opMinFactor s.opMaxFactor with
      | none => .error .capacity
      | some z => .ok (q, z)

/-- CONFIG (42_engine.md R181). -/
def execConfig (quality : Nat) (interp : Bool) (s : State) : Host.Outcome State Fault Refusal :=
  if s.fault.isSome then .next (s.raiseErr .fault)
  else match configOutcome quality s with
    | .error code => .next (s.failConfig code)
    | .ok (q, z) => .next (s.startStream q interp z)

end Sys2Proof.Machine
end

