-- ==== Sys2Proof/Machine/Kernel.lean ====
section
/-! DEFINITION. The filter kernel: FILTER_UP, FILTER_UD and SAMPLE (spec/41_filter_kernel.md R150 to R172). A
result that is absent stands for Fault(FAULT_RANGE). -/

namespace Sys2Proof.Machine

/-- The two wings of the filter (41_filter_kernel.md R155). -/
inductive Wing where
  | left
  | right
  deriving DecidableEq, Repr

/-- `dir`: the wing's direction in X (41_filter_kernel.md R160). -/
def Wing.dir : Wing → Int
  | .left => -1
  | .right => 1

/-- The first integer table position past the wing's end (41_filter_kernel.md R159). -/
def Wing.tapEnd (nwing : Nat) : Wing → Nat
  | .left => nwing
  | .right => nwing - 1

/-- The weight of a tap at integer table position h and fraction a32 (41_filter_kernel.md R157, R158). With
interpolation and an extreme ROM it overflows as R131, R158 and R168 say, and SAMPLE over silence is then the NaN of
R168; 42_engine.md R222, which is derived from SAMPLE, is read as holding where the weights are finite (DEDUCED, unsafe:
notes/assumptions/30.md). -/
def tapWeight (c : Call) (h : Nat) (a32 : Sample) : Option Sample :=
  match c.params.imp c.quality h with
  | none => none
  | some t =>
    if c.interp then (c.params.impd c.quality h).map fun d => f32Add t (f32Mul d a32)
    else some t

/-- One tap's product: its weight times X[i + dir * j] (41_filter_kernel.md R155, R160). -/
def tapProduct (c : Call) (x : Memory) (wing : Wing) (i : Int) (j h : Nat) (a32 : Sample) : Option Sample :=
  match tapWeight c h a32, xRead c x (i + wing.dir * j) with
  | some t, some v => some (f32Mul t v)
  | _, _ => none

/-- The loop of FILTER_UP (41_filter_kernel.md R160). `room` starts at the number of words of X in use: after that
many taps at neighbouring indices the next one is outside X, which is FAULT_RANGE (notes/assumptions/15.md). -/
def filterUpFrom (c : Call) (x : Memory) (wing : Wing) (i : Int) (a32 : Sample) :
    (room h j : Nat) → Sample → Option Sample
  | 0, h, _, v => if h < wing.tapEnd c.nwing then none else some v
  | room + 1, h, j, v =>
    if h < wing.tapEnd c.nwing then
      match tapProduct c x wing i j h a32 with
      | some t => filterUpFrom c x wing i a32 room (h + c.params.npc) (j + 1) (f32Add v t)
      | none => none
    else some v

/-- FILTER_UP(i, PH, dir) (41_filter_kernel.md R160, R162). -/
def filterUp (c : Call) (x : Memory) (wing : Wing) (i : Int) (ph : Nat) : Option Sample :=
  let phN := 2 ^ c.params.k * ph
  let h := phN / 2 ^ 32 + (if wing = .right ∧ ph = 0 then c.params.npc else 0)
  filterUpFrom c x wing i (f32OfRatio (phN % 2 ^ 32) (2 ^ 32)) c.limit h 0 Sample.zero

/-- The loop of FILTER_UD (41_filter_kernel.md R164), bounded as FILTER_UP's is. -/
def filterUdFrom (c : Call) (x : Memory) (wing : Wing) (i : Int) (dh : Nat) :
    (room ho j : Nat) → Sample → Option Sample
  | 0, ho, _, v => if ho / 2 ^ 32 < wing.tapEnd c.nwing then none else some v
  | room + 1, ho, j, v =>
    if ho / 2 ^ 32 < wing.tapEnd c.nwing then
      match tapProduct c x wing i j (ho / 2 ^ 32) (f32OfRatio (ho % 2 ^ 32) (2 ^ 32)) with
      | some t => filterUdFrom c x wing i dh room (ho + dh) (j + 1) (f32Add v t)
      | none => none
    else some v

/-- FILTER_UD(i, PH, dir, DH) (41_filter_kernel.md R164, R162). -/
def filterUd (c : Call) (x : Memory) (wing : Wing) (i : Int) (ph dh : Nat) : Option Sample :=
  let ho := ph * dh / 2 ^ 32 + (if wing = .right ∧ ph = 0 then dh else 0)
  filterUdFrom c x wing i dh c.limit ho 0 Sample.zero

/-- One wing's sum in the mode of the running PROCESS (41_filter_kernel.md R167). -/
def wingSum (c : Call) (x : Memory) (wing : Wing) (i : Int) (ph : Nat) : Option Sample :=
  match c.mode with
  | .up => filterUp c x wing i ph
  | .ud => filterUd c x wing i ph c.dh

/-- SAMPLE(TIME): left wing, right wing, left ⊕ right, times LPSCL (41_filter_kernel.md R154, R156, R167). -/
def sample (c : Call) (x : Memory) (time : Nat) : Option Sample :=
  let i : Nat := time / 2 ^ 32
  let lph := time % 2 ^ 32
  match wingSum c x .left i lph, wingSum c x .right (i + 1) (2 ^ 32 - lph) with
  | some l, some r => some (f32Mul (f32Add l r) c.lpscl)
  | _, _ => none

end Sys2Proof.Machine
end

