-- ==== Sys2Proof/Machine/Process.lean ====
section
/-! DEFINITION. PROCESS and its internal operations DRAIN, PULL, FLUSH, PASS and RETIRE
(spec/42_engine.md R187 to R214). -/

namespace Sys2Proof.Machine

/-- DRAIN (42_engine.md R187): deliver what fits the room, shift the rest down to index 0. -/
def drain (c : Call) (w : Work) : Run :=
  let k := min (c.room - w.written) w.yp
  (forRange (outWrite c) 0 k w).andThen fun w =>
  (forRange (fun j => yCopy c j (j + k)) 0 (w.yp - k) w).andThen fun w =>
  .done { w with yp := w.yp - k }

/-- One sample of PULL: XWrite(XREAD, InRead(used)), both counts advanced (42_engine.md R192). A sample that the
host has not presented yet makes the command wait (70_reset_and_hazards.md R276; notes/assumptions/9.md). -/
def pullOne (c : Call) (_ : Nat) (w : Work) : Run :=
  match c.inRead w.used with
  | none => .stall w
  | some v =>
    (xWrite c w.xread v { w with moves := w.moves ++ [.input] }).andThen fun w =>
    .done { w with xread := w.xread + 1 }

/-- PULL: the next min(XSIZE - XREAD, n - used) samples of the offer go to X (42_engine.md R192). -/
def pull (c : Call) (w : Work) : Run :=
  forRange (pullOne c) 0 (min (c.xsize - w.xread) (c.n - w.used)) w

/-- The final batch's padding: XOFF zeros above XREAD, FLUSHED set (42_engine.md R194). -/
def flush (c : Call) (w : Work) : Run :=
  (forRange (fun k w => xWrite c (w.xread + k) Sample.zero w) 0 c.xoff w).andThen fun w =>
  .done { w with flushed := true }

/-- One sample of a pass: YWrite(nout, SAMPLE(TIME)), nout and TIME advanced (42_engine.md R196). -/
def passOne (c : Call) (w : Work) : Run :=
  match sample c w.x w.time with
  | none => .fault .range w
  | some v =>
    (yWrite c w.nout v w).andThen fun w =>
    .done { w with nout := w.nout + 1, time := w.time + c.dt }

/-- The loop of PASS up to `bound` = (XOFF + NX) << 32 (42_engine.md R196, R197). `slots` starts at YSIZE + 1:
after YSIZE samples the next YWrite is FAULT_YOVF (20_memory.md R85). -/
def passFrom (c : Call) (bound : Nat) : (slots : Nat) → Work → Run
  | 0, w => if w.time < bound then .fault .yovf w else .done w
  | slots + 1, w =>
    if w.time < bound then (passOne c w).andThen (passFrom c bound slots) else .done w

/-- PASS over `nx` eligible samples (42_engine.md R196). -/
def pass (c : Call) (nx : Nat) (w : Work) : Run :=
  passFrom c (2 ^ 32 * (c.xoff + nx)) (c.ysize + 1) { w with nout := 0 }

/-- RETIRE, the cursor: NX and the creep leave TIME and enter XP (42_engine.md R198). -/
def retireCursor (c : Call) (nx : Nat) (w : Work) : Work :=
  let time := w.time - 2 ^ 32 * nx
  let creep := time / 2 ^ 32 - c.xoff
  { w with time := time - 2 ^ 32 * creep, xp := w.xp + nx + creep }

/-- RETIRE, the shift and the pointers (42_engine.md R199, R200). -/
def retireShift (c : Call) (w : Work) : Run :=
  let s := w.xp - c.xoff
  let nreuse := w.xread - s
  (forRange (fun k => xCopy c k (k + s)) 0 nreuse w).andThen fun w =>
  .done { w with xread := nreuse, xp := c.xoff, yp := w.nout }

/-- Whether this batch is the final one (42_engine.md R194). -/
def finalBatch (c : Call) (w : Work) : Bool := c.last && w.used == c.n

/-- NX, which alone can be negative (42_engine.md R193, R194; 00_scope.md R10). -/
def eligible (c : Call) (final : Bool) (w : Work) : Int :=
  if final then (w.xread : Int) - c.xoff else (w.xread : Int) - 2 * c.xoff

/-- Steps 5 to 7: PASS, RETIRE and the drain of what the pass made (42_engine.md R196 to R201). -/
def passAndDrain (c : Call) (nx : Nat) (w : Work) : Run :=
  (pass c nx w).andThen fun w =>
  (retireShift c (retireCursor c nx w)).andThen (drain c)

/-- Step 8: whether PROCESS stops after a pass (42_engine.md R202). -/
def stopsAfterPass (c : Call) (w : Work) : Bool :=
  decide (0 < w.yp) || w.used == c.n || w.written == c.room

/-- Step 2 and the padding of step 3 (42_engine.md R192, R194). -/
def pullAndPad (c : Call) (w : Work) : Run :=
  (pull c w).andThen fun w => if finalBatch c w then flush c w else .done w

/-- The loop of PROCESS, steps 2 to 8 (42_engine.md R188). Its bound is never reached
(70_reset_and_hazards.md R275; notes/assumptions/15.md). -/
def passes (c : Call) : (bound : Nat) → Work → Run
  | 0, w => .done w
  | bound + 1, w =>
    (pullAndPad c w).andThen fun w =>
    let nx := eligible c (finalBatch c w) w
    if nx ≤ 0 then .done w
    else
      (passAndDrain c nx.toNat w).andThen fun w =>
      if stopsAfterPass c w then .done w else passes c bound w

/-- How many iterations the loop of PROCESS is given: each consumes a sample of the offer or shortens X. -/
def passBound (c : Call) (w : Work) : Nat := c.n + w.xread + 2

/-- The body of PROCESS after its checks (42_engine.md R188, R191). -/
def processRun (c : Call) (w : Work) : Run :=
  (drain c w).andThen fun w =>
  if 0 < w.yp ∨ w.flushed = true then .done w else passes c (passBound c w) w

/-- The call checks, in order (42_engine.md R189, 60_exceptions.md R236): the code of a refusal, if any. -/
def processRefusal (s : State) : Option ErrCode :=
  if s.fault.isSome then some .fault
  else if s.configured = false then some .notConfigured
  else if (f64Le s.cfgMinFactor s.opFactor && f64Le s.opFactor s.cfgMaxFactor) = false then some .factor
  else if s.flushed = true ∧ s.opInCount ≠ 0#32 then some .exhausted
  else none

/-- PROCESS (42_engine.md R188). -/
def execProcess (last : Bool) (s : State) : Host.Outcome State Fault Refusal :=
  match processRefusal s with
  | some code => .next (s.raiseErr code)
  | none =>
    match processRun (s.call last) s.work with
    | .done w => .next (s.finishProcess w)
    | .fault cause w => .next (s.raiseFault cause w)
    | .stall _ => .next (s.waitPort (.process last))

end Sys2Proof.Machine
end

