-- ==== Sys2Proof/Machine/Dispatch.lean ====
section
/-! DEFINITION. One arm per command (spec/30_encoding.md R101). -/

namespace Sys2Proof.Machine

def exec (i : Instr) (s : State) : Host.Outcome State Fault Refusal :=
  match i with
  | .config quality interp => Sys2Proof.Machine.execConfig quality interp s
  | .process last => Sys2Proof.Machine.execProcess last s

end Sys2Proof.Machine
end

