-- ==== Sys2Proof/Machine/Flags.lean ====
section
/-! DEFINITION. The STATUS register and its fields (spec/10_state.md R34 to R40, R64; codes of
spec/60_exceptions.md R232, R238). -/

namespace Sys2Proof.Machine

/-- STATUS.BUSY (10_state.md R35). -/
def State.busy (s : State) : Bool := s.running.isSome

/-- The code of ERR (60_exceptions.md R232). -/
def ErrCode.code : ErrCode → Nat
  | .ok => 0
  | .badCmd => 1
  | .notConfigured => 2
  | .bounds => 3
  | .quality => 4
  | .capacity => 5
  | .factor => 6
  | .exhausted => 7
  | .fault => 8

/-- The code of FAULT_CAUSE (10_state.md R38, 60_exceptions.md R238). -/
def causeCode : Option FaultCause → Nat
  | none => 0
  | some .range => 1
  | some .yovf => 2

/-- The code of STATE (10_state.md R64). -/
def EngineState.code : EngineState → Nat
  | .unconfigured => 0
  | .awaitingInput => 1
  | .draining => 2
  | .exhausted => 3
  | .filtering => 4
  | .configuring => 5
  | .faulted => 7

/-- STATUS.STATE: the first matching row of 10_state.md R64. -/
def State.engineState (s : State) : EngineState :=
  if s.fault.isSome then .faulted
  else match s.running with
    | some (.process _) => .filtering
    | some (.config _ _) => .configuring
    | none =>
      if s.configured = false then .unconfigured
      else if s.yp ≠ 0#32 then .draining
      else if s.flushed then .exhausted
      else .awaitingInput

/-- The STATUS word put together from its fields (10_state.md, the field table before R34). -/
def statusWord (configured busy noProgress flushed fault overrun : Bool) (err state cause : Nat) : Word :=
  BitVec.ofNat 64
    (configured.toNat + 2 * busy.toNat + 4 * noProgress.toNat + 8 * flushed.toNat + 16 * fault.toNat +
      32 * overrun.toNat + 2 ^ 8 * (err % 16) + 2 ^ 12 * (state % 8) + 2 ^ 16 * (cause % 256))

/-- The STATUS register while no command runs. -/
def State.status (s : State) : Word :=
  statusWord s.configured s.busy s.noProgress s.flushed s.fault.isSome s.overrun s.err.code s.engineState.code
    (causeCode s.fault)

/-- A read of STATUS while a command runs: BUSY, FAULT, OVERRUN and STATE are right, the reserved bits are 0, and
the other fields have the bits of the unspecified value `v` (10_state.md R63, 70_reset_and_hazards.md R268;
notes/assumptions/8.md). -/
def State.statusWhileBusy (s : State) (v : Word) : Word :=
  statusWord (v.getLsbD 0) s.busy (v.getLsbD 2) (v.getLsbD 3) s.fault.isSome s.overrun (v.toNat / 2 ^ 8)
    s.engineState.code (v.toNat / 2 ^ 16)

end Sys2Proof.Machine
end

