-- ==== Sys2Proof/Machine/Registers.lean ====
section
/-! DEFINITION. The host register window: addresses, reads and writes (spec/10_state.md R32, R33, R41 to R57;
spec/20_memory.md R70, R76, R79). -/

namespace Sys2Proof.Machine

/-- The registers of 10_state.md R32, in the order of its table. -/
inductive Reg where
  | cmd
  | status
  | opMinFactor
  | opMaxFactor
  | opFactor
  | opInCount
  | opOutRoom
  | resInUsed
  | resOutWritten
  | cfg
  | cfgMinFactor
  | cfgMaxFactor
  | xoff
  | xsize
  | ysize
  | nwing
  | time
  | xp
  | xread
  | yp
  | id
  | param
  | reserved
  deriving DecidableEq, Repr

/-- The register at a byte offset inside the window (10_state.md R32). -/
def regAt (offset : Nat) : Reg :=
  match offset / 8 with
  | 0 => .cmd
  | 1 => .status
  | 2 => .opMinFactor
  | 3 => .opMaxFactor
  | 4 => .opFactor
  | 5 => .opInCount
  | 6 => .opOutRoom
  | 7 => .resInUsed
  | 8 => .resOutWritten
  | 9 => .cfg
  | 10 => .cfgMinFactor
  | 11 => .cfgMaxFactor
  | 12 => .xoff
  | 13 => .xsize
  | 14 => .ysize
  | 15 => .nwing
  | 16 => .time
  | 17 => .xp
  | 18 => .xread
  | 19 => .yp
  | 20 => .id
  | 21 => .param
  | _ => .reserved

/-- The byte offset of a register (10_state.md R32); for the reserved ones, the first of them. -/
def Reg.offset : Reg → Nat
  | .cmd => 0x00
  | .status => 0x08
  | .opMinFactor => 0x10
  | .opMaxFactor => 0x18
  | .opFactor => 0x20
  | .opInCount => 0x28
  | .opOutRoom => 0x30
  | .resInUsed => 0x38
  | .resOutWritten => 0x40
  | .cfg => 0x48
  | .cfgMinFactor => 0x50
  | .cfgMaxFactor => 0x58
  | .xoff => 0x60
  | .xsize => 0x68
  | .ysize => 0x70
  | .nwing => 0x78
  | .time => 0x80
  | .xp => 0x88
  | .xread => 0x90
  | .yp => 0x98
  | .id => 0xA0
  | .param => 0xA8
  | .reserved => 0xB0

/-- The register that an access names: naturally aligned, 64 bits, inside the window, which begins at REG_BASE; absent
for every other access, which is refused (20_memory.md R76, R80; notes/assumptions/4.md). -/
def accessed (p : Params) (width address : Nat) : Option Reg :=
  if width = 8 ∧ p.regBase ≤ address ∧ (address - p.regBase) % 8 = 0 ∧ address - p.regBase ≤ 0xF8 then
    some (regAt (address - p.regBase))
  else none

/-- The address of a register in the host's address space (20_memory.md R80). -/
def Reg.address (r : Reg) (p : Params) : Nat := p.regBase + r.offset

/-- QUALITY as CFG holds it (10_state.md R48). -/
def qualityCode : Quality → Nat
  | .fast => 0
  | .high => 1

/-- The CFG register (10_state.md R48). -/
def State.cfg (s : State) : Word := BitVec.ofNat 64 (qualityCode s.cfgQuality + 4 * s.cfgInterp.toNat)

/-- The PARAM register (10_state.md R57). -/
def paramWord (p : Params) : Word :=
  BitVec.ofNat 64 (p.k % 256 + 2 ^ 8 * (p.nmultFast % 256) + 2 ^ 16 * (p.nmultHigh % 256))

/-- A read of a register while no command runs (10_state.md R32, R41 to R57). It has no side effect
(20_memory.md R79). -/
def State.readReg (s : State) : Reg → Word
  | .cmd => 0#64
  | .status => s.status
  | .opMinFactor => s.opMinFactor
  | .opMaxFactor => s.opMaxFactor
  | .opFactor => s.opFactor
  | .opInCount => s.opInCount.setWidth 64
  | .opOutRoom => s.opOutRoom.setWidth 64
  | .resInUsed => s.resInUsed.setWidth 64
  | .resOutWritten => s.resOutWritten.setWidth 64
  | .cfg => s.cfg
  | .cfgMinFactor => s.cfgMinFactor
  | .cfgMaxFactor => s.cfgMaxFactor
  | .xoff => s.xoff.setWidth 64
  | .xsize => s.xsize.setWidth 64
  | .ysize => s.ysize.setWidth 64
  | .nwing => s.nwing.setWidth 64
  | .time => s.time
  | .xp => s.xp.setWidth 64
  | .xread => s.xread.setWidth 64
  | .yp => s.yp.setWidth 64
  | .id => s.params.implId
  | .param => paramWord s.params
  | .reserved => 0#64

/-- A read of a register while a command runs, with the unspecified value `v` (10_state.md R63,
70_reset_and_hazards.md R268; notes/assumptions/8.md). CMD and the reserved offsets read 0, ID and PARAM their
constants, always (10_state.md R32, R33, R51, R57). -/
def State.readRegWhileBusy (s : State) (v : Word) : Reg → Word
  | .cmd => 0#64
  | .status => s.statusWhileBusy v
  | .id => s.params.implId
  | .param => paramWord s.params
  | .reserved => 0#64
  | _ => v

/-- A write of a register other than CMD while no command runs: the operand registers store the value, every other
register ignores it (10_state.md R32, R41 to R45, R56; 20_memory.md R79). -/
def State.writeReg (s : State) (r : Reg) (v : Word) : State :=
  match r with
  | .opMinFactor => { s with opMinFactor := v }
  | .opMaxFactor => { s with opMaxFactor := v }
  | .opFactor => { s with opFactor := v }
  | .opInCount => { s with opInCount := v.setWidth 32 }
  | .opOutRoom => { s with opOutRoom := v.setWidth 32 }
  | _ => s

end Sys2Proof.Machine
end

