-- ==== Sys2Proof/Machine/Reset.lean ====
section
/-! DEFINITION. The reset input and the instantiation of the block (spec/70_reset_and_hazards.md R260, R261;
spec/00_scope.md R8). -/

namespace Sys2Proof.Machine

/-- The port transfers of the running command that a reset finds already made, a beginning of those it makes in the
order it makes them (20_memory.md R90). How far the command got is unspecified (70_reset_and_hazards.md R261,
93_implementation_defined.md U20; notes/assumptions/11.md). -/
def State.transfersMade (s : State) : List Transfer :=
  match s.running with
  | some (.process last) =>
    match processRefusal s with
    | some _ => []
    | none => (processRun (s.call last) s.work).reached.moves.take (Config.freeWord s.freeCount).toNat
  | _ => []

/-- The reset input is asserted: every register takes its reset value, X and Y become unwritten, the build
parameters and what stands at the pins stay (70_reset_and_hazards.md R260, R261). -/
def State.resetInput (s : State) : State :=
  { State.reset with
    params := s.params
    inPort := (s.movePorts s.transfersMade).inPort
    outPort := (s.movePorts s.transfersMade).outPort
    outReady := (s.movePorts s.transfersMade).outReady
    bus := s.bus
    answer := s.answer
    latencies := s.latencies
    freeCount := s.freeCount + 1 }

/-- The block built with other parameters, right after power-on; an instantiation that breaks 00_scope.md R8 is
refused (notes/assumptions/17.md). -/
def State.instantiate (p : Params) : Option State :=
  if p.valid then some { State.reset with params := p } else none

end Sys2Proof.Machine
end

