-- ==== Sys2Proof/Machine/Command.lean ====
section
/-! DEFINITION. How the block serves the host: one event at a time, in arrival order (spec/20_memory.md R76, R90;
spec/10_state.md R33, R35, R39; spec/42_engine.md R180; spec/70_reset_and_hazards.md R265, R268). -/

namespace Sys2Proof.Machine

/-- A word written to CMD while no command runs (10_state.md R33, 30_encoding.md R105, R106). A command whose
duration is 0 takes its effect at once; any other keeps the block BUSY first (10_state.md R35). -/
def startCommand (w : Word) (s : State) : Host.Outcome State Fault Refusal :=
  match decode w with
  | .error _ => .next (s.raiseErr .badCmd)
  | .ok i =>
    match s.latencies with
    | [] => exec i s
    | 0 :: rest => exec i { s with latencies := rest }
    | (d + 1) :: rest => .next { s with running := some i, busyLeft := d + 1, latencies := rest }

/-- A register-bus write while no command runs. -/
def writeAccess (width address : Nat) (v : Word) (s : State) : Host.Outcome State Fault Refusal :=
  match accessed s.params width address with
  | none => .next { s with answer := some .busError }
  | some .cmd => startCommand v { s with answer := some .written }
  | some r => .next { s.writeReg r v with answer := some .written }

/-- A register-bus read while no command runs (20_memory.md R76, R79). -/
def readAccess (width address : Nat) (s : State) : State :=
  match accessed s.params width address with
  | none => { s with answer := some .busError }
  | some r => { s with answer := some (.value (s.readReg r)) }

/-- A register-bus write while a command runs: it is dropped and sets OVERRUN, unless it is refused (10_state.md R39,
20_memory.md R76; notes/assumptions/25.md). -/
def writeWhileBusy (width address : Nat) (s : State) : State :=
  match accessed s.params width address with
  | none => { s with answer := some .busError }
  | some _ => { s with overrun := true, answer := some .written }

/-- A register-bus read while a command runs: what R63 leaves open is a fresh free value (10_state.md R63,
20_memory.md R76; notes/assumptions/8.md). -/
def readWhileBusy (width address : Nat) (s : State) : State :=
  match accessed s.params width address with
  | none => { s with answer := some .busError }
  | some r =>
    { s with
      answer := some (.value (s.readRegWhileBusy (Config.freeWord s.freeCount) r))
      freeCount := s.freeCount + 1 }

/-- The next event of the platform, while no command runs. With none pending the block idles
(70_reset_and_hazards.md R262). -/
def serveIdle (s : State) : Host.Outcome State Fault Refusal :=
  match s.bus with
  | [] => .next s
  | .read width address :: rest => .next (readAccess width address { s with bus := rest })
  | .write width address v :: rest => writeAccess width address v { s with bus := rest }
  | .offer samples :: rest => .next { s with bus := rest, inPort := samples }
  | .accept ready :: rest => .next { s with bus := rest, outReady := ready }
  | .reset :: rest => .next { s with bus := rest }.resetInput

/-- The next event of the platform, while a command runs; a reset ends the command (70_reset_and_hazards.md R261). -/
def serveWhileBusy (s : State) : State :=
  match s.bus with
  | [] => s
  | .read width address :: rest => readWhileBusy width address { s with bus := rest }
  | .write width address _ :: rest => writeWhileBusy width address { s with bus := rest }
  | .offer samples :: rest => { s with bus := rest, inPort := samples }
  | .accept ready :: rest => { s with bus := rest, outReady := ready }
  | .reset :: rest => { s with bus := rest }.resetInput

/-- The last step of a running command: its effect, after which BUSY is 0; a command that still waits on a port lets
the platform go on (70_reset_and_hazards.md R276). -/
def completeCommand (i : Instr) (s : State) : Host.Outcome State Fault Refusal :=
  match exec i s with
  | .next t => .next (if t.busy then serveWhileBusy t else t)
  | .fault r => .fault r
  | .refused r => .refused r

/-- One step of the block: an event of the platform served, or the running command's end. -/
def advance (s : State) : Host.Outcome State Fault Refusal :=
  match s.running with
  | none => serveIdle s
  | some i =>
    if s.busyLeft = 0 then completeCommand i s
    else .next (serveWhileBusy { s with busyLeft := s.busyLeft - 1 })

/-- The state with a word put where the block takes its next command from: a write of CMD before every other pending
event, by a host that finds the block idle, for a command of duration 0. -/
def State.withCommandWord (s : State) (w : Word) : State :=
  { s with
    running := none
    busyLeft := 0
    latencies := 0 :: s.latencies
    bus := .write 8 (Reg.cmd.address s.params) w :: s.bus }

end Sys2Proof.Machine
end

