-- ==== Sys2Proof/Machine/Step.lean ====
section
/-! DEFINITION. One step of the machine, and how a command is placed where it takes its next one from. -/

namespace Sys2Proof.Machine

/-- One step: see `advance` (spec/20_memory.md R90, spec/42_engine.md R180). -/
def step (s : State) : Host.Outcome State Fault Refusal := advance s

/-- `s` with the command word of `nbits` bits `w` written to CMD next (notes/assumptions/1.md says how a program
comes to run). -/
def State.withFetchWord (s : State) (nbits w : Nat) : State :=
  s.withCommandWord (BitVec.ofNat 64 (w % 2 ^ nbits))

end Sys2Proof.Machine
end

