-- ==== Sys2Proof/Safety.lean ====
section
/-! DEFINITION. What a good state of the block is, in the terms claims use: the invariants between commands
(spec/10_state.md R65 to R67), the reach of the buffer sizes (spec/42_engine.md R216 to R218), and the stream a
run has resampled (R220). -/

namespace Sys2Proof.Machine

/-- The sizes CONFIG latched (10_state.md R65). -/
abbrev State.SizesFit (s : State) : Prop :=
  1 ≤ s.xoff.toNat ∧ 2 * s.xoff.toNat + 1 ≤ s.xsize.toNat ∧ s.xsize.toNat + s.xoff.toNat ≤ s.params.xCap ∧
  1 ≤ s.ysize.toNat ∧ s.ysize.toNat ≤ s.params.yCap ∧ s.nwing.toNat = s.params.nwing s.cfgQuality

/-- The cursor, the pointers and the pending count (10_state.md R66). -/
abbrev State.CursorFits (s : State) : Prop :=
  2 ^ 32 * s.xoff.toNat ≤ s.time.toNat ∧ s.time.toNat < 2 ^ 32 * (s.xoff.toNat + 1) ∧ s.xp = s.xoff ∧
  s.yp.toNat ≤ s.ysize.toNat ∧
  (s.flushed = false → s.xoff.toNat ≤ s.xread.toNat ∧ s.xread.toNat ≤ 2 * s.xoff.toNat) ∧
  (s.flushed = true → s.xread.toNat ≤ s.xoff.toNat)

/-- The words of X below XREAD and of Y below YP have been written (10_state.md R67). -/
abbrev State.WordsWritten (s : State) : Prop :=
  (∀ i < s.xread.toNat, (s.x.read i).isSome = true) ∧ (∀ i < s.yp.toNat, (s.y.read i).isSome = true)

/-- The factor bounds CONFIG latched, and that the creep of a pass stays within XOFF (42_engine.md R182, R217). -/
abbrev State.StepFits (s : State) : Prop :=
  boundsOk s.cfgMinFactor s.cfgMaxFactor = true ∧ timeStep s.cfgMinFactor ≤ 2 ^ 32 * s.xoff.toNat

/-- The memories are in canonical form. -/
abbrev State.MemoriesCanonical (s : State) : Prop := s.x.wf ∧ s.y.wf

/-- Parameters that obey the numeric constraints of 00_scope.md R8 and whose wing lengths the 32-bit register NWING
can hold, which R8 does not ask for (10_state.md R50; notes/assumptions/16.md). -/
abbrev Params.Fit (p : Params) : Prop := p.sized = true ∧ p.nwingFast < 2 ^ 32 ∧ p.nwingHigh < 2 ^ 32

/-- The invariant of the block: 10_state.md R65 to R67, which hold while CONFIGURED = 1 and FAULT = 0. -/
abbrev State.StreamInv (s : State) : Prop :=
  Params.Fit s.params ∧ s.MemoriesCanonical ∧
  (s.configured = true → s.fault = none → s.SizesFit ∧ s.CursorFits ∧ s.WordsWritten ∧ s.StepFits)

/-- The sizes reach far enough for every accepted factor: XOFF words hold every tap (42_engine.md R216), YSIZE words
every output of a pass (R218). -/
abbrev State.SizesReach (s : State) : Prop :=
  2 ^ 32 * s.nwing.toNat ≤ s.xoff.toNat * tableStep s.params.npc s.cfgMinFactor ∧
  2 ^ 32 * (s.xsize.toNat - s.xoff.toNat) ≤ s.ysize.toNat * timeStep s.cfgMaxFactor

/-- Every entry of a tier's ROM is there (00_scope.md R7, 40_filter_design.md R130). -/
abbrev RomTotal (p : Params) (q : Quality) : Prop := ∀ h < p.nwing q, (p.imp q h).isSome = true

/-- No fault has happened and none can: the invariants, the sizes that reach while configured, and both ROMs
(42_engine.md R219). -/
abbrev State.Sound (s : State) : Prop :=
  s.StreamInv ∧ s.fault = none ∧ (s.configured = true → s.SizesReach) ∧ RomTotal s.params .fast ∧
  RomTotal s.params .high

/-- The output port accepts `count` more samples (70_reset_and_hazards.md R276). -/
abbrev State.Takes (s : State) (count : Nat) : Prop := ∀ ready ∈ s.outReady, count ≤ ready

/-- The host presents the whole offer and accepts all the room it gave, so no port makes a PROCESS wait
(70_reset_and_hazards.md R276). -/
abbrev State.PortsReady (s : State) : Prop := s.opInCount.toNat ≤ s.inPort.length ∧ s.Takes s.opOutRoom.toNat

/-- A state in which PROCESS meets no refusal and no wait. -/
abbrev State.Accepts (s : State) : Prop := processRefusal s = none ∧ s.PortsReady

/-- `u` is the state in which the command of `s`, whose duration has run, waits on a port (70_reset_and_hazards.md
R276). -/
abbrev State.WaitsAs (s : State) (i : Instr) (u : State) : Prop :=
  s.running = some i ∧ s.busyLeft = 0 ∧ exec i s = .next u ∧ u.running ≠ none

/-- What a read of register number `k` may answer while command `i` runs: BUSY, FAULT, OVERRUN, STATE and the reserved
bits of STATUS are right, CMD and the reserved offsets read 0, ID and PARAM their constants (10_state.md R63,
70_reset_and_hazards.md R268; notes/assumptions/8.md). -/
abbrev State.BusyAnswer (s : State) (i : Instr) (k : Nat) (v : Word) : Prop :=
  (k = 1 → v.getLsbD 1 = true ∧ v.getLsbD 4 = s.fault.isSome ∧ v.getLsbD 5 = s.overrun ∧
    v.toNat / 2 ^ 6 % 4 = 0 ∧
    v.toNat / 2 ^ 12 % 8 = (if s.fault.isSome then 7 else match i with
      | .process _ => 4
      | .config _ _ => 5) ∧
    v.toNat / 2 ^ 15 % 2 = 0 ∧ v.toNat < 2 ^ 24) ∧
  (k = 0 ∨ 22 ≤ k → v = 0#64) ∧ (k = 20 → v = s.params.implId) ∧ (k = 21 → v = paramWord s.params)

/-- The stream buffer of 42_engine.md R220: XOFF zeros, the stream, zeros for ever. -/
def streamBuffer (xoff : Nat) (stream : List Sample) (j : Nat) : Sample :=
  if j < xoff then Sample.zero else (stream[j - xoff]?).getD Sample.zero

/-- The words of the stream buffer that a sample of the stream can reach. -/
def streamMemory (xoff : Nat) (stream : List Sample) : Memory :=
  (List.range (stream.length + 2 * xoff)).map fun j => (j, streamBuffer xoff stream j)

/-- Output k of the closed form: SAMPLE at XOFF * 2^32 + k * DT over the stream buffer (42_engine.md R220). -/
def closedForm (c : Call) (stream : List Sample) (k : Nat) : Option Sample :=
  sample { c with xsize := stream.length + c.xoff } (streamMemory c.xoff stream) (2 ^ 32 * c.xoff + k * c.dt)

/-- State `s` is where the block stands after it consumed the first `pos` samples of `stream` with OP_FACTOR as it is
now and made the outputs 0 to `made` - 1, of which the last YP are pending; `base` samples have been shifted out of X
(42_engine.md R220). After the flush every position below the end of the stream has been made (R221). -/
abbrev State.Tracks (s : State) (stream : List Sample) (pos made base : Nat) : Prop :=
  pos ≤ stream.length ∧ s.yp.toNat ≤ made ∧ base + s.xread.toNat = s.xoff.toNat + pos ∧
  s.time.toNat + 2 ^ 32 * base = 2 ^ 32 * s.xoff.toNat + made * timeStep s.opFactor ∧
  (∀ j < s.xread.toNat, s.x.read j = some (streamBuffer s.xoff.toNat stream (base + j))) ∧
  (∀ j < s.yp.toNat, s.y.read j = closedForm (s.call false) stream (made - s.yp.toNat + j)) ∧
  (∀ k < made, k * timeStep s.opFactor < 2 ^ 32 * pos) ∧
  (s.flushed = true → pos = stream.length ∧ 2 ^ 32 * stream.length ≤ made * timeStep s.opFactor)

/-- The step that `s` takes runs CONFIG: at once, or at the end of its duration. -/
def State.runsConfig (s : State) : Prop :=
  (∃ q b, s.running = some (.config q b) ∧ s.busyLeft = 0) ∨
  (s.running = none ∧ ∃ w rest q b, s.bus = .write 8 s.params.regBase w :: rest ∧ decode w = .ok (.config q b))

/-- The step that `s` takes may serve the reset input. -/
def State.resetNext (s : State) : Prop := ∃ rest, s.bus = .reset :: rest

/-- The registers of the window by byte offset, as the table of 10_state.md R32 lists them; an offset that is not
listed is reserved and reads 0. -/
def State.registerTable (s : State) : List (Nat × Word) :=
  [(0x00, 0#64), (0x08, s.status), (0x10, s.opMinFactor), (0x18, s.opMaxFactor), (0x20, s.opFactor),
   (0x28, s.opInCount.setWidth 64), (0x30, s.opOutRoom.setWidth 64), (0x38, s.resInUsed.setWidth 64),
   (0x40, s.resOutWritten.setWidth 64), (0x48, s.cfg), (0x50, s.cfgMinFactor), (0x58, s.cfgMaxFactor),
   (0x60, s.xoff.setWidth 64), (0x68, s.xsize.setWidth 64), (0x70, s.ysize.setWidth 64),
   (0x78, s.nwing.setWidth 64), (0x80, s.time), (0x88, s.xp.setWidth 64), (0x90, s.xread.setWidth 64),
   (0x98, s.yp.setWidth 64), (0xA0, s.params.implId), (0xA8, paramWord s.params)]

/-- The operand registers are the same in both states (10_state.md R41 to R45). -/
abbrev SameOperands (s t : State) : Prop :=
  t.opMinFactor = s.opMinFactor ∧ t.opMaxFactor = s.opMaxFactor ∧ t.opFactor = s.opFactor ∧
  t.opInCount = s.opInCount ∧ t.opOutRoom = s.opOutRoom

/-- The configuration, the ROM and CONFIGURED are the same in both states (10_state.md R69). -/
abbrev SameConfiguration (s t : State) : Prop :=
  t.cfgQuality = s.cfgQuality ∧ t.cfgInterp = s.cfgInterp ∧ t.cfgMinFactor = s.cfgMinFactor ∧
  t.cfgMaxFactor = s.cfgMaxFactor ∧ t.xoff = s.xoff ∧ t.xsize = s.xsize ∧ t.ysize = s.ysize ∧
  t.nwing = s.nwing ∧ t.configured = s.configured ∧ t.params = s.params

/-- The result registers and NO_PROGRESS are the same in both states (10_state.md R36, R46, R47). -/
abbrev SameResults (s t : State) : Prop :=
  t.resInUsed = s.resInUsed ∧ t.resOutWritten = s.resOutWritten ∧ t.noProgress = s.noProgress

/-- Nothing has moved at the ports (20_memory.md R89). -/
abbrev SamePorts (s t : State) : Prop :=
  t.inPort = s.inPort ∧ t.outPort = s.outPort ∧ t.outReady = s.outReady

/-- The model's own record of the platform, except the ports, is the same in both states (notes/assumptions/1.md, 7.md,
12.md). -/
abbrev SamePlatform (s t : State) : Prop :=
  t.bus = s.bus ∧ t.answer = s.answer ∧ t.latencies = s.latencies ∧ t.freeCount = s.freeCount

/-- A command word that 30_encoding.md R105 calls malformed: its conditions (a) to (d). -/
abbrev Malformed (w : Word) : Prop :=
  (w &&& 0xF#64 ≠ 0x1#64 ∧ w &&& 0xF#64 ≠ 0x2#64) ∨ w >>> 8 ≠ 0#64 ∨
  (w &&& 0xF#64 = 0x1#64 ∧ w.getLsbD 4 = true) ∨
  (w &&& 0xF#64 = 0x2#64 ∧ (w.getLsbD 5 = true ∨ (w >>> 6) &&& 3#64 ≠ 0#64))

/-- `q` is the integer nearest to n/d, and of two equally near ones the even one (00_scope.md R11). -/
abbrev NearestEven (n d q : Nat) : Prop :=
  2 * n ≤ (2 * q + 1) * d ∧ 2 * q * d ≤ 2 * n + d ∧
  ((2 * q + 1) * d = 2 * n → q % 2 = 0) ∧ (2 * q * d = 2 * n + d → q % 2 = 0)

/-- A pattern of a format stands for a finite value (00_scope.md R12). -/
abbrev Format.Finite (F : Format) (b : Nat) : Prop := b % 2 ^ (F.expBits + F.fracBits) < F.infBits

/-- The sign bit of a pattern. -/
def Format.sign (F : Format) (b : Nat) : Bool := b.testBit (F.expBits + F.fracBits)

/-- The exact value of a finite pattern, in units of the format's least subnormal, from its fields: the fraction of a
subnormal, the significand times 2^(exponent - 1) of a normal one (00_scope.md R12). -/
def Format.exact (F : Format) (b : Nat) : Int :=
  let e := b / 2 ^ F.fracBits % 2 ^ F.expBits
  let f := b % 2 ^ F.fracBits
  let m := if e = 0 then f else 2 ^ (e - 1) * (2 ^ F.fracBits + f)
  if F.sign b then -(m : Int) else m

/-- A binary64 pattern is a NaN (00_scope.md R12). -/
abbrev F64.IsNaN (a : F64) : Prop := 0x7FF0000000000000 < a.toNat % 2 ^ 63

/-- A binary32 pattern is a NaN (41_filter_kernel.md R168). -/
abbrev Sample.IsNaN (a : Sample) : Prop := 0x7F800000 < a.toNat % 2 ^ 31

/-- The order of the binary64 values that are not NaNs, read off the bits: both zeros are 0. -/
def F64.key (a : F64) : Int :=
  if a.toNat < 2 ^ 63 then (a.toNat : Int) else -((a.toNat : Int) - 2 ^ 63)

/-- The state in which the host has written the operands of a PROCESS that offers the next `n` samples of a stream, of
which `pos` are consumed, with `room` for output, and accepts what comes (30_encoding.md R115, R116;
70_reset_and_hazards.md R266). -/
def State.offerFrom (s : State) (stream : List Sample) (pos n room : Nat) : State :=
  { s with
    opInCount := BitVec.ofNat 32 ((stream.drop pos).take n).length
    opOutRoom := BitVec.ofNat 32 room
    inPort := (stream.drop pos).take n
    outReady := none }

/-- A list of PROCESS commands that stream `stream`: each offers the next samples, at most the first number of its
pair, with the second number as room, and LAST where the offer reaches the end (30_encoding.md R116,
70_reset_and_hazards.md R266, R267). The result is how many samples were consumed, and the last state. -/
def streamCalls (stream : List Sample) : List (Nat × Nat) → Nat → State → Option (Nat × State)
  | [], pos, s => some (pos, s)
  | (n, room) :: rest, pos, s =>
    match exec (.process (pos + ((stream.drop pos).take n).length == stream.length))
      (s.offerFrom stream pos n room) with
    | .next t => streamCalls stream rest (pos + t.resInUsed.toNat) t
    | _ => none

end Sys2Proof.Machine
end

