-- ==== Sys2Proof/Certificates/Slice0/Obligations.lean ====
section
/-! DEFINITION. The statements for the provers, one `def Obligations.<Name> : Prop` each; OBLIGATIONS.json lists
them with their tiers and their rules. -/

section Statements

open Sys2Proof Sys2Proof.Machine

/-! ## Encoding -/

/-- Every command a word can spell survives the encoder and the decoder, as a word, as the eight bytes the bus carries
and as a table word; and a word is the encoding of what it decodes to, so no bit of it is dropped. Bytes are
little-endian, of a register word and of a sample, and a sequence of samples carried as bytes is read back as it was
(30_encoding.md R100, R106; 20_memory.md R77). -/
def Obligations.DecodeEncodeRoundTrip : Prop :=
  (∀ i : Instr, i.WellFormed →
    decode (encode i) = .ok i ∧ decodeBytes (encodeBytes i) = .ok i ∧
    decodeTableWord 64 (encode i).toNat = some i) ∧
  (∀ (w : Word) (i : Instr), decode w = .ok i → i.WellFormed ∧ encode i = w) ∧
  (∀ w : Word, (bytesOfWord w).length = 8 ∧
    ∀ k < 8, (bytesOfWord w)[k]? = some (w.extractLsb' (8 * k) 8)) ∧
  (∀ v : Sample, (bytesOfSample v).length = 4 ∧
    ∀ k < 4, (bytesOfSample v)[k]? = some (v.extractLsb' (8 * k) 8)) ∧
  (∀ samples : List Sample, samplesOfBytes (bytesOfSamples samples) = some samples) ∧
  (∀ (bytes : List Byte) (samples : List Sample), samplesOfBytes bytes = some samples →
    bytesOfSamples samples = bytes)

/-- The complete set of command words, as a list and as match/mask pairs with their free fields (30_encoding.md
R108). -/
def Obligations.AcceptedWordsAreTheTable : Prop :=
  ∀ w : Word,
    (∀ quality interp, decode w = .ok (.config quality interp) ↔
      w &&& 0xFFFFFFFFFFFFFF1F#64 = 0x1#64 ∧ quality = ((w >>> 6) &&& 3#64).toNat ∧
      interp = w.getLsbD 5) ∧
    (∀ last, decode w = .ok (.process last) ↔
      w &&& 0xFFFFFFFFFFFFFFEF#64 = 0x2#64 ∧ last = w.getLsbD 4) ∧
    ((∃ i, decode w = .ok i) ↔
      w ∈ [0x01#64, 0x21#64, 0x41#64, 0x61#64, 0x81#64, 0xA1#64, 0xC1#64, 0xE1#64, 0x02#64, 0x12#64])

/-- A malformed word written to CMD of an idle block changes only STATUS.ERR, whatever FAULT and CONFIGURED are; the
words refused so are those of conditions (a) to (d) (10_state.md R33, R35, 30_encoding.md R105, 60_exceptions.md R233).
That the word is answered in the step of its write, without BUSY time, is the model's choice
(notes/assumptions/21.md). -/
def Obligations.MalformedWordChangesOnlyErr : Prop :=
  ∀ w : Word,
    ((∃ e, decode w = .error e) ↔ Malformed w) ∧
    ∀ (s : State) (rest : List HostEvent), s.running = none →
      s.bus = .write 8 s.params.regBase w :: rest → Malformed w →
      step s = .next { s with bus := rest, answer := some .written, err := .badCmd }

/-- Words written out from the table of 30_encoding.md R108. -/
def Obligations.ListedWordsDecode : Prop :=
  decode 0x01#64 = .ok (.config 0 false) ∧ decode 0x21#64 = .ok (.config 0 true) ∧
  decode 0x41#64 = .ok (.config 1 false) ∧ decode 0x61#64 = .ok (.config 1 true) ∧
  decode 0xE1#64 = .ok (.config 3 true) ∧ decode 0x02#64 = .ok (.process false) ∧
  decode 0x12#64 = .ok (.process true)

/-! ## A step, and the time a command takes -/

/-- A step at a state whose next event is a command word of an idle block is `exec` of the decoded command, in the
state from which the event is taken and answered; a command of duration d + 1 first makes the block BUSY. The placed
word of `withFetchWord` runs the same way (10_state.md R33, R35; 20_memory.md R90). -/
def Obligations.StepRunsDecodedCommand : Prop :=
  (∀ (s : State) (w : Word) (rest : List HostEvent) (i : Instr), s.running = none →
    s.bus = .write 8 s.params.regBase w :: rest → decode w = .ok i →
    (s.latencies = [] → step s = exec i { s with bus := rest, answer := some .written }) ∧
    (∀ later, s.latencies = 0 :: later →
      step s = exec i { s with bus := rest, answer := some .written, latencies := later }) ∧
    (∀ d later, s.latencies = (d + 1) :: later →
      step s = .next { s with
        bus := rest, answer := some .written, latencies := later, running := some i, busyLeft := d + 1 })) ∧
  (∀ (s : State) (nbits w : Nat) (i : Instr), nbits ≤ 64 → decodeTableWord nbits w = some i →
    step (s.withFetchWord nbits w) = exec i { s with running := none, busyLeft := 0, answer := some .written })

/-- A command that takes time: while its duration runs and the host does nothing, nothing but the duration changes;
then it has the effect `exec` gives it (10_state.md R35, 70_reset_and_hazards.md R275). -/
def Obligations.BusyCommandTakesEffectAtItsEnd : Prop :=
  ∀ (s t : State) (i : Instr), s.running = some i → s.bus = [] →
    exec i { s with busyLeft := 0 } = .next t → t.running = none →
    (∀ k ≤ s.busyLeft, Sys2Proof.core.run k s = .next { s with busyLeft := s.busyLeft - k }) ∧
    Sys2Proof.core.run (s.busyLeft + 1) s = .next t

/-- Every step has a next state: no command and no event stops the machine. A command that no port makes wait has ended
when `exec` answers (60_exceptions.md R230, 70_reset_and_hazards.md R275). -/
def Obligations.NothingStopsTheMachine : Prop :=
  (∀ s : State, ∃ t, step s = .next t) ∧
  (∀ (i : Instr) (s : State), s.PortsReady →
    ∃ t, exec i s = .next t ∧ t.running = none)

/-- The bounds that the model puts on the loops of PROCESS, namely those of FILTER_UP, FILTER_UD and PASS and the loop
over the passes, are never what ends them: any larger bound gives the same result (notes/assumptions/15.md;
70_reset_and_hazards.md R275). Nothing is said of the loops of the ROM's generator. -/
def Obligations.LoopBoundsNeverDecide : Prop :=
  (∀ (c : Call) (x : Memory) (wing : Wing) (i : Int) (a32 v : Sample) (room h : Nat), c.limit ≤ room →
    filterUpFrom c x wing i a32 room h 0 v = filterUpFrom c x wing i a32 c.limit h 0 v) ∧
  (∀ (c : Call) (x : Memory) (wing : Wing) (i : Int) (dh : Nat) (v : Sample) (room ho : Nat), c.limit ≤ room →
    filterUdFrom c x wing i dh room ho 0 v = filterUdFrom c x wing i dh c.limit ho 0 v) ∧
  (∀ (c : Call) (bound slots : Nat) (w : Work), c.ysize + 1 ≤ slots →
    passFrom c bound slots { w with nout := 0 } = passFrom c bound (c.ysize + 1) { w with nout := 0 }) ∧
  (∀ (c : Call) (bound : Nat) (w : Work), w.xp = c.xoff → w.xread < c.xsize → 2 * c.xoff < c.xsize →
    w.used ≤ c.n → passBound c w ≤ bound → passes c bound w = passes c (passBound c w) w)

/-! ## The register bus -/

/-- An access of another width, misaligned or outside the window is answered with a bus error and changes nothing
else, in an idle block, in one whose command has time left, and in one that waits on a port (20_memory.md R76, R80,
60_exceptions.md R241). That an address below the window is refused so, and a write while BUSY as well, is the model's
reading (notes/assumptions/4.md, 25.md). -/
def Obligations.RefusedAccessChangesNothing : Prop :=
  ∀ (s : State) (width address : Nat) (v : Word) (rest : List HostEvent),
    (width ≠ 8 ∨ address < s.params.regBase ∨ (address - s.params.regBase) % 8 ≠ 0 ∨
      s.params.regBase + 0xF8 < address) →
    (s.bus = .read width address :: rest ∨ s.bus = .write width address v :: rest) →
    (s.running = none → step s = .next { s with bus := rest, answer := some .busError }) ∧
    (∀ i k, s.running = some i → s.busyLeft = k + 1 →
      step s = .next { s with bus := rest, answer := some .busError, busyLeft := k }) ∧
    (∀ i u, s.WaitsAs i u → step s = .next { u with bus := rest, answer := some .busError })

/-- A read of an idle block answers the register that stands at its offset from REG_BASE in the table of 10_state.md
R32, zero for CMD and the reserved offsets, and changes nothing else (20_memory.md R76, R79, R80; 10_state.md R56). -/
def Obligations.ReadAnswersTheRegister : Prop :=
  ∀ (s : State) (k : Nat) (rest : List HostEvent), k < 32 → s.running = none →
    s.bus = .read 8 (s.params.regBase + 8 * k) :: rest →
    step s = .next { s with
      bus := rest, answer := some (.value ((s.registerTable.lookup (8 * k)).getD 0#64)) }

/-- A write of an operand register stores the value, of a count its bits [31:0]; the next read answers it; nothing
else changes. A write of a read-only or reserved register is ignored (10_state.md R32, R41 to R45, R56; 20_memory.md
R79). -/
def Obligations.WritesStoreTheOperandsOnly : Prop :=
  ∀ (s : State) (v : Word) (rest : List HostEvent), s.running = none →
    (s.bus = .write 8 (s.params.regBase + 0x10) v :: .read 8 (s.params.regBase + 0x10) :: rest →
      Sys2Proof.core.run 2 s = .next { s with bus := rest, answer := some (.value v), opMinFactor := v }) ∧
    (s.bus = .write 8 (s.params.regBase + 0x18) v :: .read 8 (s.params.regBase + 0x18) :: rest →
      Sys2Proof.core.run 2 s = .next { s with bus := rest, answer := some (.value v), opMaxFactor := v }) ∧
    (s.bus = .write 8 (s.params.regBase + 0x20) v :: .read 8 (s.params.regBase + 0x20) :: rest →
      Sys2Proof.core.run 2 s = .next { s with bus := rest, answer := some (.value v), opFactor := v }) ∧
    (s.bus = .write 8 (s.params.regBase + 0x28) v :: .read 8 (s.params.regBase + 0x28) :: rest →
      Sys2Proof.core.run 2 s = .next { s with
        bus := rest, answer := some (.value (v &&& 0xFFFFFFFF#64)), opInCount := v.setWidth 32 }) ∧
    (s.bus = .write 8 (s.params.regBase + 0x30) v :: .read 8 (s.params.regBase + 0x30) :: rest →
      Sys2Proof.core.run 2 s = .next { s with
        bus := rest, answer := some (.value (v &&& 0xFFFFFFFF#64)), opOutRoom := v.setWidth 32 }) ∧
    (∀ k, k = 1 ∨ 7 ≤ k ∧ k < 32 → s.bus = .write 8 (s.params.regBase + 8 * k) v :: rest →
      step s = .next { s with bus := rest, answer := some .written })

/-- OVERRUN: a write of any register while BUSY is dropped and sets it, be the command's duration running or the command
waiting on a port; nothing else sets it, and only reset clears it (10_state.md R39, 20_memory.md R76, 60_exceptions.md
R241). That a refused write while BUSY leaves it alone is the model's reading (notes/assumptions/25.md). -/
def Obligations.OverrunRecordsDroppedWrites : Prop :=
  (∀ (s : State) (i : Instr) (k n : Nat) (v : Word) (rest : List HostEvent), s.running = some i →
    s.busyLeft = n + 1 → k < 32 → s.bus = .write 8 (s.params.regBase + 8 * k) v :: rest →
    step s = .next { s with bus := rest, answer := some .written, overrun := true, busyLeft := n }) ∧
  (∀ (s u : State) (i : Instr) (k : Nat) (v : Word) (rest : List HostEvent), s.WaitsAs i u → k < 32 →
    s.bus = .write 8 (s.params.regBase + 8 * k) v :: rest →
    step s = .next { u with bus := rest, answer := some .written, overrun := true }) ∧
  (∀ s t : State, step s = .next t → s.overrun = true → t.overrun = true ∨ s.resetNext) ∧
  (∀ s t : State, step s = .next t → s.overrun = false → t.overrun = true →
    s.running.isSome = true ∧ ∃ k v rest, k < 32 ∧ s.bus = .write 8 (s.params.regBase + 8 * k) v :: rest) ∧
  (∀ s : State, s.resetInput.overrun = false)

/-- A read while a command runs, be it that its duration runs or that it waits on a port: BUSY, FAULT, OVERRUN, STATE
and the reserved bits of STATUS are right, CMD and the reserved offsets read 0, ID and PARAM their constants, and the
read changes nothing of the block. Nothing is said of any other value (10_state.md R63, 70_reset_and_hazards.md R268,
R276; notes/assumptions/8.md). -/
def Obligations.BusyReadKeepsTheFixedFields : Prop :=
  ∀ (s : State) (i : Instr) (k : Nat) (rest : List HostEvent), k < 32 →
    s.bus = .read 8 (s.params.regBase + 8 * k) :: rest →
    (∀ n, s.running = some i → s.busyLeft = n + 1 → ∃ v, s.BusyAnswer i k v ∧
      step s = .next { s with
        bus := rest, answer := some (.value v), busyLeft := n, freeCount := s.freeCount + 1 }) ∧
    (∀ u, s.WaitsAs i u → ∃ v, s.BusyAnswer i k v ∧
      step s = .next { u with bus := rest, answer := some (.value v), freeCount := u.freeCount + 1 })

/-! ## STATUS and PARAM -/

/-- Where the fields of STATUS and PARAM stand, with the codes of ERR and FAULT_CAUSE (10_state.md R34 to R40, R57,
60_exceptions.md R232, R238). That PARAM holds the low 8 bits of an NMULT above 255 is the model's choice
(notes/assumptions/19.md). -/
def Obligations.StatusAndParamLayout : Prop :=
  (∀ s : State,
    s.status.getLsbD 0 = s.configured ∧ s.status.getLsbD 1 = s.running.isSome ∧
    s.status.getLsbD 2 = s.noProgress ∧ s.status.getLsbD 3 = s.flushed ∧
    s.status.getLsbD 4 = s.fault.isSome ∧ s.status.getLsbD 5 = s.overrun ∧
    s.status.toNat / 2 ^ 6 % 4 = 0 ∧ s.status.toNat / 2 ^ 8 % 16 = s.err.code ∧
    s.status.toNat / 2 ^ 12 % 8 = s.engineState.code ∧ s.status.toNat / 2 ^ 15 % 2 = 0 ∧
    s.status.toNat / 2 ^ 16 % 256 = causeCode s.fault ∧ s.status.toNat < 2 ^ 24) ∧
  [ErrCode.ok, .badCmd, .notConfigured, .bounds, .quality, .capacity, .factor, .exhausted, .fault].map ErrCode.code =
    List.range 9 ∧
  [none, some FaultCause.range, some .yovf].map causeCode = List.range 3 ∧
  (∀ p : Params,
    (paramWord p).toNat % 2 ^ 8 = p.k % 2 ^ 8 ∧ (paramWord p).toNat / 2 ^ 8 % 2 ^ 8 = p.nmultFast % 2 ^ 8 ∧
    (paramWord p).toNat / 2 ^ 16 = p.nmultHigh % 2 ^ 8) ∧
  paramWord Params.default = 0x0000000000230B0C#64

/-- STATE is the first matching row of the table of 10_state.md R64. -/
def Obligations.EngineStateIsTheFirstMatch : Prop :=
  ∀ s : State,
    (s.fault ≠ none → s.engineState.code = 7) ∧
    (s.fault = none → ∀ last, s.running = some (.process last) → s.engineState.code = 4) ∧
    (s.fault = none → ∀ quality interp, s.running = some (.config quality interp) → s.engineState.code = 5) ∧
    (s.fault = none → s.running = none → s.configured = false → s.engineState.code = 0) ∧
    (s.fault = none → s.running = none → s.configured = true → s.yp ≠ 0#32 → s.engineState.code = 2) ∧
    (s.fault = none → s.running = none → s.configured = true → s.yp = 0#32 → s.flushed = true →
      s.engineState.code = 3) ∧
    (s.fault = none → s.running = none → s.configured = true → s.yp = 0#32 → s.flushed = false →
      s.engineState.code = 1)

/-! ## Reset and the sticky fault -/

/-- The reset input puts every register at its reset value, X and Y unwritten, whatever ran; the parameters and the ROM
stay. It is served in an idle block, in one whose command has time left and in one that waits on a port; and the state
after power-on is such a state (10_state.md R32; 70_reset_and_hazards.md R260, R261, R276). -/
def Obligations.ResetPutsEveryRegisterAtItsValue : Prop :=
  (∀ s : State,
    s.resetInput.registerTable =
      [(0x00, 0#64), (0x08, 0#64), (0x10, 0x3FF0000000000000#64), (0x18, 0x3FF0000000000000#64),
       (0x20, 0x3FF0000000000000#64), (0x28, 0#64), (0x30, 0#64), (0x38, 0#64), (0x40, 0#64), (0x48, 0#64),
       (0x50, 0#64), (0x58, 0#64), (0x60, 0#64), (0x68, 0#64), (0x70, 0#64), (0x78, 0#64), (0x80, 0#64),
       (0x88, 0#64), (0x90, 0#64), (0x98, 0#64), (0xA0, s.params.implId), (0xA8, paramWord s.params)] ∧
    s.resetInput.x = [] ∧ s.resetInput.y = [] ∧ s.resetInput.params = s.params ∧ s.resetInput.running = none ∧
    s.resetInput.fault = none) ∧
  (∀ (s : State) (rest : List HostEvent), s.bus = .reset :: rest →
    (s.running = none → step s = .next { s with bus := rest }.resetInput) ∧
    (∀ i k, s.running = some i → s.busyLeft = k + 1 →
      step s = .next { s with bus := rest, busyLeft := k }.resetInput) ∧
    (∀ i u, s.WaitsAs i u → step s = .next { u with bus := rest }.resetInput)) ∧
  State.reset.registerTable = State.reset.resetInput.registerTable ∧ State.reset.x = [] ∧ State.reset.y = []

/-- A reset during a command: the port transfers the command has made stay made, a beginning of all it makes in the
order it makes them, in which a sample is taken or delivered only after the transfers before it; and a command that
runs to its end makes them all. An idle block and a CONFIG move nothing. How long the beginning is is the model's free
value (20_memory.md R90; 70_reset_and_hazards.md R261; notes/assumptions/11.md). -/
def Obligations.ResetKeepsTransfersMade : Prop :=
  ∀ s : State,
    (∀ (last : Bool) (w : Work), s.running = some (.process last) → processRefusal s = none →
      (processRun (s.call last) s.work).reached = w →
      ∃ made later, w.moves = made ++ later ∧
        s.resetInput.inPort = s.inPort.drop (made.count .input) ∧
        s.resetInput.outPort = s.outPort ++ outputsOf made ∧
        s.resetInput.outReady = s.outReady.map fun r => r - (outputsOf made).length) ∧
    (∀ (last : Bool) (w : Work), processRefusal s = none → processRun (s.call last) s.work = .done w →
      ∃ t, exec (.process last) s = .next t ∧ t.inPort = s.inPort.drop (w.moves.count .input) ∧
        t.outPort = s.outPort ++ outputsOf w.moves) ∧
    ((s.running = none ∨ ∃ quality interp, s.running = some (.config quality interp)) →
      SamePorts s s.resetInput)

/-- While FAULT = 1 every well-formed command ends at once with ERR_FAULT and changes nothing else, and only reset
leaves this condition or changes FAULT_CAUSE (60_exceptions.md R237, R240). -/
def Obligations.FaultedBlockRefusesEveryCommand : Prop :=
  (∀ (i : Instr) (s : State), s.fault ≠ none → exec i s = .next { s with err := .fault, running := none }) ∧
  (∀ (s t : State) (cause : FaultCause), s.fault = some cause → step s = .next t →
    t.fault = some cause ∨ s.resetNext)

/-- A fault during PROCESS: FAULT, its cause and ERR_FAULT are set; the transfers made stay made; the configuration
registers, CONFIGURED, OVERRUN and the operands keep their values; the rest is unspecified and nothing is said of it
(60_exceptions.md R238, R239). -/
def Obligations.FaultKeepsTheConfiguration : Prop :=
  ∀ (last : Bool) (s : State) (cause : FaultCause) (w : Work), processRefusal s = none →
    processRun (s.call last) s.work = .fault cause w →
    ∃ t, exec (.process last) s = .next t ∧ t.fault = some cause ∧ t.err = .fault ∧ t.running = none ∧
      SameConfiguration s t ∧ SameOperands s t ∧ t.overrun = s.overrun ∧
      t.bus = s.bus ∧ t.answer = s.answer ∧ t.latencies = s.latencies ∧
      t.inPort = s.inPort.drop w.used ∧ t.outPort = s.outPort ++ w.out ∧
      t.outReady = s.outReady.map fun r => r - w.out.length

/-! ## Binary64 comparisons, and the values of a call -/

/-- The binary64 order read off the bit patterns: false with a NaN, both zeros equal (42_engine.md R182, R189). -/
def Obligations.Binary64OrderByBits : Prop :=
  ∀ a b : F64,
    (f64Le a b = true ↔ ¬ F64.IsNaN a ∧ ¬ F64.IsNaN b ∧ F64.key a ≤ F64.key b) ∧
    (f64Lt a b = true ↔ ¬ F64.IsNaN a ∧ ¬ F64.IsNaN b ∧ F64.key a < F64.key b) ∧
    (boundsOk a b = true ↔ 0 < a.toNat ∧ a.toNat ≤ b.toNat ∧ b.toNat < 0x7FF0000000000000)

/-- The mode, the gain, DH and DT of a call with a positive finite factor (41_filter_kernel.md R151 to R153,
42_engine.md R190), and the exact rational value f = factorNum / factorDen they are computed from: of a normal pattern
the significand times 2^(exponent - 1075), of a subnormal one the fraction times 2^-1074 (00_scope.md R12). -/
def Obligations.CallValues : Prop :=
  ∀ (s : State) (last : Bool), 0 < s.opFactor.toNat → s.opFactor.toNat < 0x7FF0000000000000 →
    ((s.call last).mode = .up ↔ 0x3FF0000000000000 ≤ s.opFactor.toNat) ∧
    ((s.call last).mode = .up → (s.call last).lpscl = 0x3F800000#32) ∧
    ((s.call last).mode = .ud → (s.call last).lpscl = f32OfF64 s.opFactor) ∧
    NearestEven (2 ^ 32 * factorDen) (factorNum s.opFactor) (s.call last).dt ∧
    (∃ q, NearestEven (2 ^ 32 * s.params.npc * factorNum s.opFactor) factorDen q ∧
      (s.call last).dh = min (2 ^ 32 * s.params.npc) q) ∧
    factorDen = 2 ^ 1074 ∧
    factorNum s.opFactor =
      (if s.opFactor.toNat / 2 ^ 52 = 0 then s.opFactor.toNat
       else 2 ^ (s.opFactor.toNat / 2 ^ 52 - 1) * (2 ^ 52 + s.opFactor.toNat % 2 ^ 52))

/-! ## CONFIG -/

/-- CONFIG refuses with ERR_BOUNDS unless both bounds are finite, positive and in order (42_engine.md R182). The state
it leaves is that of R181 and R185, with FLUSHED = 0, where the model follows them against 10_state.md R37
(notes/assumptions/24.md). -/
def Obligations.ConfigRefusesBadBounds : Prop :=
  ∀ (s : State) (quality : Nat) (interp : Bool), s.fault = none →
    ¬ (0 < s.opMinFactor.toNat ∧ s.opMinFactor.toNat ≤ s.opMaxFactor.toNat ∧
      s.opMaxFactor.toNat < 0x7FF0000000000000) →
    exec (.config quality interp) s = .next { s with
      running := none, err := .bounds, configured := false, flushed := false, cfgQuality := .fast,
      cfgInterp := false, cfgMinFactor := 0#64, cfgMaxFactor := 0#64, xoff := 0#32, xsize := 0#32,
      ysize := 0#32, nwing := 0#32, time := 0#64, xp := 0#32, xread := 0#32, yp := 0#32, x := [], y := [] }

/-- QUALITY 2 and 3 are well formed, decode as CONFIG, and CONFIG refuses them with ERR_QUALITY; ERR_BOUNDS takes
precedence; the refused CONFIG discards the configuration, and FLUSHED with it, which is the model's reading of two
rules that differ (30_encoding.md R110, 42_engine.md R181, R183, R185; notes/assumptions/24.md). -/
def Obligations.ConfigRefusesUnsupportedTiers : Prop :=
  (∀ (quality : Nat) (interp : Bool), 2 ≤ quality → quality < 4 →
    decode (encode (.config quality interp)) = .ok (.config quality interp)) ∧
  (∀ (s : State) (quality : Nat) (interp : Bool), s.fault = none → 2 ≤ quality →
    exec (.config quality interp) s = .next { s with
      running := none
      err := if boundsOk s.opMinFactor s.opMaxFactor then .quality else .bounds
      configured := false, flushed := false, cfgQuality := .fast, cfgInterp := false, cfgMinFactor := 0#64,
      cfgMaxFactor := 0#64, xoff := 0#32, xsize := 0#32, ysize := 0#32, nwing := 0#32, time := 0#64,
      xp := 0#32, xread := 0#32, yp := 0#32, x := [], y := [] })

/-- A failed CONFIG discards the configuration and all streaming state, leaves the results, NO_PROGRESS, the operands,
FAULT, OVERRUN and the ports alone, and every PROCESS is then refused with ERR_NOT_CONFIGURED until a CONFIG succeeds
(42_engine.md R181, R185). That FLUSHED is cleared too is the model's reading, against 10_state.md R37
(notes/assumptions/24.md). -/
def Obligations.FailedConfigDiscardsTheStream : Prop :=
  (∀ (s t : State) (quality : Nat) (interp : Bool), s.fault = none → exec (.config quality interp) s = .next t →
    t.err ≠ .ok →
    t.configured = false ∧ t.flushed = false ∧ t.cfg = 0#64 ∧ t.cfgMinFactor = 0#64 ∧ t.cfgMaxFactor = 0#64 ∧
    t.xoff = 0#32 ∧ t.xsize = 0#32 ∧ t.ysize = 0#32 ∧ t.nwing = 0#32 ∧ t.time = 0#64 ∧ t.xp = 0#32 ∧
    t.xread = 0#32 ∧ t.yp = 0#32 ∧ (∀ i, t.x.read i = none) ∧ (∀ i, t.y.read i = none) ∧ t.running = none ∧
    SameResults s t ∧ SameOperands s t ∧ SamePlatform s t ∧ t.fault = none ∧ t.overrun = s.overrun ∧
    t.params = s.params ∧ SamePorts s t) ∧
  (∀ (s : State) (last : Bool), s.fault = none → s.configured = false →
    exec (.process last) s = .next { s with running := none, err := .notConfigured }) ∧
  (∀ s t : State, s.configured = false → step s = .next t → t.configured = true → s.runsConfig ∧ t.err = .ok)

/-- The sizes of R184, with every check of capacity: CONFIG with good bounds and a supported tier ends in ERR_CAPACITY,
and the state of R185, exactly when a size does not fit; otherwise it latches the sizes (42_engine.md R181, R184). The
real numbers `xo` and `ys` are the pseudocode's binary64 expressions, operation by operation. That a number wider than
its register is cut to 32 bits is the model's choice (notes/assumptions/16.md). -/
def Obligations.ConfigSizesTheBuffers : Prop :=
  ∀ (s : State) (quality : Nat) (q : Quality) (interp : Bool), s.fault = none →
    boundsOk s.opMinFactor s.opMaxFactor = true → (quality = 0 ∧ q = .fast ∨ quality = 1 ∧ q = .high) →
    let half := f64Div (f64OfNat (1 + s.params.nmult q)) f64Two
    let xo := f64Add (f64Mul half (f64Max F64.one (f64Div F64.one s.opMinFactor))) (f64OfNat s.params.xoffPad)
    let xoff := f64Floor xo
    let xsize := max (2 * xoff + s.params.xsizePad) s.params.xsizeMin
    let ys := f64Add (f64Mul (f64OfNat xsize) s.opMaxFactor) s.params.ysizePad
    let tooBig := f64Lt xo (f64OfNat s.params.xCap) = false ∨ s.params.xCap < xsize + xoff ∨
      f64Lt ys (f64Add (f64OfNat s.params.yCap) F64.one) = false
    ∃ t, exec (.config quality interp) s = .next t ∧
      (tooBig → t.err = .capacity ∧ t.configured = false ∧ t.xoff = 0#32 ∧ t.yp = 0#32) ∧
      (¬ tooBig → t.err = .ok ∧ t.xoff = BitVec.ofNat 32 xoff ∧ t.xsize = BitVec.ofNat 32 xsize ∧
        t.ysize = BitVec.ofNat 32 (f64Floor ys) ∧ t.nwing = BitVec.ofNat 32 (s.params.nwing q))

/-- CONFIG completes: with good bounds, a supported tier and sizes that fit, it latches the configuration and starts a
fresh stream, with +0.0 in X[0, XOFF), TIME = XOFF << 32, XP = XREAD = XOFF and nothing pending; it changes no operand,
not FAULT nor OVERRUN, and moves nothing at the ports (42_engine.md R181, R186). That a number wider than its register,
such as an NWING of 2^32, is cut to 32 bits is the model's choice (notes/assumptions/16.md). -/
def Obligations.ConfigStartsAFreshStream : Prop :=
  ∀ (s : State) (quality : Nat) (q : Quality) (interp : Bool) (z : Sizes), s.fault = none →
    boundsOk s.opMinFactor s.opMaxFactor = true → (quality = 0 ∧ q = .fast ∨ quality = 1 ∧ q = .high) →
    sizesFor s.params q s.opMinFactor s.opMaxFactor = some z →
    ∃ t, exec (.config quality interp) s = .next t ∧
      t.err = .ok ∧ t.running = none ∧ t.configured = true ∧ t.flushed = false ∧ t.noProgress = false ∧
      t.resInUsed = 0#32 ∧ t.resOutWritten = 0#32 ∧
      t.cfg = BitVec.ofNat 64 (quality + 4 * interp.toNat) ∧
      t.cfgMinFactor = s.opMinFactor ∧ t.cfgMaxFactor = s.opMaxFactor ∧
      t.xoff = BitVec.ofNat 32 z.xoff ∧ t.xsize = BitVec.ofNat 32 z.xsize ∧ t.ysize = BitVec.ofNat 32 z.ysize ∧
      t.nwing = BitVec.ofNat 32 (s.params.nwing q) ∧
      t.time = BitVec.ofNat 64 (2 ^ 32 * z.xoff) ∧ t.xp = t.xoff ∧ t.xread = t.xoff ∧ t.yp = 0#32 ∧
      (∀ i, t.x.read i = if i < z.xoff then some 0x00000000#32 else none) ∧ (∀ i, t.y.read i = none) ∧
      SameOperands s t ∧ SamePlatform s t ∧ t.params = s.params ∧ t.fault = none ∧ t.overrun = s.overrun ∧
      SamePorts s t

/-- A CONFIG that succeeds, with parameters that obey 00_scope.md R8, establishes the invariants between commands,
latches the integers of the sizing without wrap-around, and stands at the beginning of every stream (00_scope.md R10,
10_state.md R65 to R67, 42_engine.md R184, R186, R217). -/
def Obligations.ConfigEstablishesTheInvariants : Prop :=
  ∀ (s t : State) (quality : Nat) (interp : Bool), Params.Fit s.params → s.fault = none →
    exec (.config quality interp) s = .next t → t.err = .ok →
    t.SizesFit ∧ t.CursorFits ∧ t.WordsWritten ∧ t.StepFits ∧ t.MemoriesCanonical ∧
    (∃ q z, tierOf quality = some q ∧ sizesFor s.params q s.opMinFactor s.opMaxFactor = some z ∧
      t.xoff.toNat = z.xoff ∧ t.xsize.toNat = z.xsize ∧ t.ysize.toNat = z.ysize) ∧
    ∀ stream, t.Tracks stream 0 0 0

/-- A CONFIG that succeeds, with parameters that obey 00_scope.md R8, makes the buffers large enough at the two bounds
of the factor: XOFF table steps at the least factor pass the wing, and YSIZE time steps at the greatest factor pass the
XSIZE - XOFF samples of the widest pass (42_engine.md R216, R218). -/
def Obligations.ConfigSizesReachEveryFactor : Prop :=
  ∀ (s t : State) (quality : Nat) (interp : Bool), s.params.sized = true → s.fault = none →
    exec (.config quality interp) s = .next t → t.err = .ok → t.SizesReach

/-! ## PROCESS: its checks and its parts -/

/-- The call checks of PROCESS, in order; a refused PROCESS changes only STATUS.ERR (42_engine.md R189). The comparisons
are of binary64 values; `Binary64OrderByBits` says what they are. -/
def Obligations.ProcessRefusals : Prop :=
  ∀ (s : State) (last : Bool), s.fault = none →
    (s.configured = false → exec (.process last) s = .next { s with running := none, err := .notConfigured }) ∧
    (s.configured = true → ¬ (f64Le s.cfgMinFactor s.opFactor = true ∧ f64Le s.opFactor s.cfgMaxFactor = true) →
      exec (.process last) s = .next { s with running := none, err := .factor }) ∧
    (s.configured = true → f64Le s.cfgMinFactor s.opFactor = true → f64Le s.opFactor s.cfgMaxFactor = true →
      s.flushed = true → s.opInCount ≠ 0#32 →
      exec (.process last) s = .next { s with running := none, err := .exhausted }) ∧
    (s.configured = true → f64Le s.cfgMinFactor s.opFactor = true → f64Le s.opFactor s.cfgMaxFactor = true →
      (s.flushed = false ∨ s.opInCount = 0#32) → processRefusal s = none)

/-- DRAIN delivers min(room - written, YP) samples in order, shifts the rest down to index 0 and lowers YP; it cannot
fault while YP ≤ YSIZE and the words of Y[0, YP) are written, and does not wait while the output port accepts them
(42_engine.md R187). When the port accepts fewer, those it accepts are the transfers made, and DRAIN waits
(70_reset_and_hazards.md R276). -/
def Obligations.DrainDeliversAndShifts : Prop :=
  ∀ (c : Call) (w : Work), w.yp ≤ c.ysize → (∀ i < w.yp, (w.y.read i).isSome = true) →
    (∀ ready, c.ready = some ready → w.written ≤ ready → ready < w.written + min (c.room - w.written) w.yp →
      ∃ delivered : List Sample, delivered.map some = (List.range (ready - w.written)).map w.y.read ∧
        drain c w = .stall { w with moves := w.moves ++ delivered.map .output }) ∧
    ((∀ ready ∈ c.ready, w.written + min (c.room - w.written) w.yp ≤ ready) →
    ∃ (w' : Work) (delivered : List Sample), drain c w = .done w' ∧ w'.moves = w.moves ++ delivered.map .output ∧
      delivered.map some = (List.range (min (c.room - w.written) w.yp)).map w.y.read ∧
      w'.yp = w.yp - min (c.room - w.written) w.yp ∧
      (∀ j < w'.yp, w'.y.read j = w.y.read (j + min (c.room - w.written) w.yp)) ∧
      (∀ j, w'.yp ≤ j → w'.y.read j = w.y.read j) ∧
      w'.x = w.x ∧ w'.time = w.time ∧ w'.xp = w.xp ∧ w'.xread = w.xread ∧ w'.flushed = w.flushed ∧
      w'.nout = w.nout)

/-- PULL copies the next min(XSIZE - XREAD, n - used) samples of the offer, in order, to X[XREAD, …) and advances both
counts by as many (42_engine.md R192). -/
def Obligations.PullTakesTheNextSamples : Prop :=
  ∀ (c : Call) (w : Work), c.n ≤ c.offer.length →
    ∃ w', pull c w = .done w' ∧
      w'.used = w.used + min (c.xsize - w.xread) (c.n - w.used) ∧
      w'.moves = w.moves ++ List.replicate (min (c.xsize - w.xread) (c.n - w.used)) .input ∧
      w'.xread = w.xread + min (c.xsize - w.xread) (c.n - w.used) ∧
      (∀ k < min (c.xsize - w.xread) (c.n - w.used), w'.x.read (w.xread + k) = c.offer[w.used + k]?) ∧
      (∀ j, j < w.xread ∨ w'.xread ≤ j → w'.x.read j = w.x.read j) ∧
      w'.y = w.y ∧ w'.time = w.time ∧ w'.xp = w.xp ∧ w'.yp = w.yp ∧ w'.flushed = w.flushed ∧
      w'.nout = w.nout

/-- The final batch, and only it, writes XOFF zeros above XREAD, which does not move, and sets FLUSHED; NX is then
XREAD - XOFF, and XREAD - 2 * XOFF in a normal batch (42_engine.md R193, R194). -/
def Obligations.FinalBatchPadsWithZeros : Prop :=
  ∀ (c : Call) (w w1 : Work), pull c w = .done w1 → w1.xread ≤ c.xsize →
    (c.last = true → w1.used = c.n →
      ∃ w', pullAndPad c w = .done w' ∧ w'.flushed = true ∧ w'.xread = w1.xread ∧
        (∀ k < c.xoff, w'.x.read (w1.xread + k) = some 0x00000000#32) ∧
        (∀ j, j < w1.xread ∨ w1.xread + c.xoff ≤ j → w'.x.read j = w1.x.read j) ∧
        w' = { w1 with x := w'.x, flushed := true } ∧
        eligible c (finalBatch c w') w' = (w1.xread : Int) - c.xoff) ∧
    (c.last = false ∨ w1.used ≠ c.n →
      pullAndPad c w = .done w1 ∧ eligible c (finalBatch c w1) w1 = (w1.xread : Int) - 2 * c.xoff)

/-- PASS makes a sample at TIME exactly while TIME < (XOFF + NX) << 32, one per step of DT, in order, in Y[0, nout); X
and the pointers stay. The write of a sample past YSIZE faults with FAULT_YOVF (42_engine.md R196, R197). -/
def Obligations.PassMakesEverySampleBelowTheBound : Prop :=
  ∀ (c : Call) (w : Work) (nx count : Nat), 0 < c.dt →
    (∀ k, k < count ↔ w.time + k * c.dt < 2 ^ 32 * (c.xoff + nx)) →
    (∀ k < count, (sample c w.x (w.time + k * c.dt)).isSome = true) →
    (count ≤ c.ysize →
      ∃ w', pass c nx w = .done w' ∧ w'.nout = count ∧ w'.time = w.time + count * c.dt ∧
        (∀ k < count, w'.y.read k = sample c w.x (w.time + k * c.dt)) ∧
        (∀ j, count ≤ j → w'.y.read j = w.y.read j) ∧
        w' = { w with y := w'.y, nout := w'.nout, time := w'.time }) ∧
    (c.ysize < count → ∃ w', pass c nx w = .fault .yovf w' ∧ w'.moves = w.moves)

/-- RETIRE, the cursor: NX and the creep, both whole samples, leave TIME and enter XP, and TIME then lies in
[XOFF, XOFF + 1) samples (42_engine.md R198). -/
def Obligations.RetireRebasesTheCursor : Prop :=
  ∀ (c : Call) (w : Work) (nx : Nat), 2 ^ 32 * (c.xoff + nx) ≤ w.time →
    ∃ creep, (retireCursor c nx w).time + 2 ^ 32 * (nx + creep) = w.time ∧
      (retireCursor c nx w).xp = w.xp + nx + creep ∧
      2 ^ 32 * c.xoff ≤ (retireCursor c nx w).time ∧ (retireCursor c nx w).time < 2 ^ 32 * (c.xoff + 1) ∧
      retireCursor c nx w = { w with time := (retireCursor c nx w).time, xp := (retireCursor c nx w).xp }

/-- RETIRE, the shift and the pointers: X[s, XREAD) moves down to X[0, nreuse) as if copied to a fresh array first, and
XREAD = nreuse, XP = XOFF, YP = nout (42_engine.md R199, R200; 20_memory.md R94). -/
def Obligations.RetireShiftsX : Prop :=
  ∀ (c : Call) (w : Work), c.xoff ≤ w.xp → w.xp - c.xoff ≤ w.xread → w.xread ≤ c.limit →
    (∀ i < w.xread, (w.x.read i).isSome = true) →
    ∃ w', retireShift c w = .done w' ∧ w'.xread + (w.xp - c.xoff) = w.xread ∧ w'.xp = c.xoff ∧ w'.yp = w.nout ∧
      (∀ k < w'.xread, w'.x.read k = w.x.read (k + (w.xp - c.xoff))) ∧
      (∀ j, w'.xread ≤ j → w'.x.read j = w.x.read j) ∧
      w' = { w with x := w'.x, xread := w'.xread, xp := w'.xp, yp := w'.yp }

/-! ## The kernel -/

/-- IMPD: the differences of neighbouring entries, the last one the negation of the last entry, none past the end
(40_filter_design.md R131). -/
def Obligations.DifferenceTableRule : Prop :=
  ∀ (p : Params) (q : Quality) (h : Nat) (here next : Sample), p.imp q h = some here →
    (h + 1 = p.nwing q → p.impd q h = some (here ^^^ 0x80000000#32)) ∧
    (p.imp q (h + 1) = some next → p.impd q h = some (f32Sub next here)) ∧
    (∀ g, p.nwing q ≤ g → p.imp q g = none ∧ p.impd q g = none)

/-- The tap sum of a wing, tap by tap: with T taps at table positions below the wing's end, all of whose words and
entries are there, it is the sum in increasing j from +0.0 of weight ⊗ X[i + dir * j]. In UP mode the positions are
h0 + j * NPC with one fraction, in UD mode Ho + j * DH with a fraction for each tap. The weight of a tap is IMP[h], with
interpolation IMP[h] ⊕ (IMPD[h] ⊗ a32). A sample at TIME is the left wing at i = TIME >> 32 and phase LPH = TIME[31:0]
plus the right wing at i + 1 and phase 2^32 - LPH, times LPSCL (41_filter_kernel.md R154 to R158, R160, R161, R164,
R165, R167). -/
def Obligations.WingIsTheOrderedTapSum : Prop :=
  (∀ (c : Call) (h : Nat) (a32 here : Sample), c.params.imp c.quality h = some here →
    (c.interp = false → tapWeight c h a32 = some here) ∧
    (∀ slope, c.interp = true → c.params.impd c.quality h = some slope →
      tapWeight c h a32 = some (f32Add here (f32Mul slope a32)))) ∧
  (∀ (c : Call) (x : Memory) (time : Nat) (left right : Sample),
    (c.mode = .up →
      filterUp c x .left ((time / 2 ^ 32 : Nat) : Int) (time % 2 ^ 32) = some left ∧
      filterUp c x .right ((time / 2 ^ 32 + 1 : Nat) : Int) (2 ^ 32 - time % 2 ^ 32) = some right) →
    (c.mode = .ud →
      filterUd c x .left ((time / 2 ^ 32 : Nat) : Int) (time % 2 ^ 32) c.dh = some left ∧
      filterUd c x .right ((time / 2 ^ 32 + 1 : Nat) : Int) (2 ^ 32 - time % 2 ^ 32) c.dh = some right) →
    sample c x time = some (f32Mul (f32Add left right) c.lpscl)) ∧
  ∀ (c : Call) (x : Memory) (wing : Wing) (i : Int) (ph dh taps : Nat) (weight input : Nat → Sample),
    0 < ph ∨ wing = .left → (∀ j < taps, xRead c x (i + wing.dir * j) = some (input j)) →
    ((∀ j, j < taps ↔ 2 ^ c.params.k * ph / 2 ^ 32 + j * c.params.npc < wing.tapEnd c.nwing) →
      (∀ j < taps, tapWeight c (2 ^ c.params.k * ph / 2 ^ 32 + j * c.params.npc)
        (f32OfRatio (2 ^ c.params.k * ph % 2 ^ 32) (2 ^ 32)) = some (weight j)) →
      filterUp c x wing i ph =
        some ((List.range taps).foldl (fun v j => f32Add v (f32Mul (weight j) (input j))) 0x00000000#32)) ∧
    ((∀ j, j < taps ↔ (ph * dh / 2 ^ 32 + j * dh) / 2 ^ 32 < wing.tapEnd c.nwing) →
      (∀ j < taps, tapWeight c ((ph * dh / 2 ^ 32 + j * dh) / 2 ^ 32)
        (f32OfRatio ((ph * dh / 2 ^ 32 + j * dh) % 2 ^ 32) (2 ^ 32)) = some (weight j)) →
      filterUd c x wing i ph dh =
        some ((List.range taps).foldl (fun v j => f32Add v (f32Mul (weight j) (input j))) 0x00000000#32))

/-- Tap reach: when a wing's XOFF nearest words are written and in use and XOFF table steps pass the wing, SAMPLE has
its value and no read of it is out of range (42_engine.md R216). -/
def Obligations.SampleReachesOnlyWrittenWords : Prop :=
  ∀ (c : Call) (x : Memory) (time : Nat), c.nwing = c.params.nwing c.quality → RomTotal c.params c.quality →
    (c.mode = .up → c.nwing ≤ c.xoff * c.params.npc) →
    (c.mode = .ud → 2 ^ 32 * c.nwing ≤ c.xoff * c.dh) →
    c.xoff ≤ time / 2 ^ 32 + 1 → time / 2 ^ 32 + c.xoff < c.limit →
    (∀ k, time / 2 ^ 32 + 1 ≤ k + c.xoff → k ≤ time / 2 ^ 32 + c.xoff → (x.read k).isSome = true) →
    (sample c x time).isSome = true

/-- Where the two modes meet: with DH = NPC * 2^32 a wing of UD mode is that of UP mode, bit for bit; and a factor below
1 whose DH is clamped there has the gain 1.0 of UP mode (41_filter_kernel.md R171). -/
def Obligations.ModesAgreeAtTheClamp : Prop :=
  (∀ (c : Call) (x : Memory) (wing : Wing) (i : Int) (ph : Nat),
    filterUd c x wing i ph (2 ^ 32 * c.params.npc) = filterUp c x wing i ph) ∧
  (∀ (f : F64) (k : Nat), 1 ≤ k → 0 < f.toNat → f.toNat < 0x3FF0000000000000 →
    tableStep (2 ^ k) f = 2 ^ 32 * 2 ^ k → modeOf f = .ud ∧ gainOf f = 0x3F800000#32)

/-- Zeros: (+0.0) ⊕ (-0.0) = +0.0, x ⊕ (-x) = +0.0 for finite x, and a sample all of whose taps are zeros is +0.0, with
interpolation or without, when the weight at every table position with a fraction of 32 bits is finite and the gain is
finite and not negative (41_filter_kernel.md R158, R169, 42_engine.md R222). Without interpolation every ROM that obeys
00_scope.md R8 (4) meets this, and with interpolation every ROM whose entries are at most 2^125, which the second clause
on SAMPLE says. That R222 is read with finite weights is the model's: an entry near the largest value may make a
difference or a weight overflow (notes/assumptions/30.md). -/
def Obligations.SilenceGivesPositiveZero : Prop :=
  f32Add 0x00000000#32 0x80000000#32 = 0x00000000#32 ∧
  (∀ a : Sample, a.toNat % 2 ^ 31 < 0x7F800000 → f32Add a (f32Neg a) = 0x00000000#32) ∧
  (∀ (c : Call) (x : Memory) (time : Nat) (v : Sample),
    (∀ i a, x.read i = some a → a = 0x00000000#32 ∨ a = 0x80000000#32) →
    (∀ h r t, r < 2 ^ 32 → tapWeight c h (f32OfRatio r (2 ^ 32)) = some t → t.toNat % 2 ^ 31 < 0x7F800000) →
    c.lpscl.toNat < 0x7F800000 →
    sample c x time = some v → v = 0x00000000#32) ∧
  (∀ (c : Call) (x : Memory) (time : Nat) (v : Sample),
    (∀ i a, x.read i = some a → a = 0x00000000#32 ∨ a = 0x80000000#32) →
    (∀ h t, c.params.imp c.quality h = some t →
      t.toNat % 2 ^ 31 < 0x7F800000 ∧ (c.interp = true → t.toNat % 2 ^ 31 ≤ 0x7E000000)) →
    c.lpscl.toNat < 0x7F800000 → sample c x time = some v → v = 0x00000000#32)

/-! ## Arithmetic -/

/-- Rounding to nearest even in binary32 and binary64: a pattern below infinity is nearest to the exact magnitude among
all finite patterns, and on a tie the even one; infinity results exactly from the midpoint past the largest finite
value on. And ⊕, the subtraction, ⊗, the conversions to binary32, and the binary64 sum, difference, product and quotient
of finite operands are the exact result rounded once so, with its sign; the sign of an exact zero is in
`SilenceGivesPositiveZero` (00_scope.md R12, 41_filter_kernel.md R156, R170). Magnitudes count in units of the least
subnormal, 2^-149 and 2^-1074; `Format.exact` reads them off the fields of a pattern. -/
def Obligations.RoundingIsToNearestEven : Prop :=
  (∀ (F : Format) (num den : Nat), F = binary32 ∨ F = binary64 → 0 < den →
    (F.roundMag num den < F.infBits → ∀ b < F.infBits,
      ((num : Int) - F.exact (F.roundMag num den) * den).natAbs ≤ ((num : Int) - F.exact b * den).natAbs ∧
      (((num : Int) - F.exact (F.roundMag num den) * den).natAbs = ((num : Int) - F.exact b * den).natAbs →
        b ≠ F.roundMag num den → F.roundMag num den % 2 = 0)) ∧
    F.roundMag num den ≤ F.infBits ∧
    (F.roundMag num den = F.infBits ↔
      (den : Int) * (2 * F.exact (F.infBits - 1) + 2 ^ (2 ^ F.expBits - 3)) ≤ 2 * num)) ∧
  (∀ a b : Sample, binary32.Finite a.toNat → binary32.Finite b.toNat →
    let x := binary32.exact a.toNat
    let y := binary32.exact b.toNat
    (x + y ≠ 0 → (f32Add a b).toNat = binary32.pack (decide (x + y < 0)) (binary32.roundMag (x + y).natAbs 1)) ∧
    (x - y ≠ 0 → (f32Sub a b).toNat = binary32.pack (decide (x - y < 0)) (binary32.roundMag (x - y).natAbs 1)) ∧
    (f32Mul a b).toNat =
      binary32.pack (binary32.sign a.toNat ^^ binary32.sign b.toNat)
        (binary32.roundMag (x * y).natAbs (2 ^ 149))) ∧
  (∀ a b : F64, binary64.Finite a.toNat → binary64.Finite b.toNat →
    let x := binary64.exact a.toNat
    let y := binary64.exact b.toNat
    (f32OfF64 a).toNat =
      binary32.pack (binary64.sign a.toNat) (binary32.roundMag (2 ^ 149 * x.natAbs) (2 ^ 1074)) ∧
    (x + y ≠ 0 → (f64Add a b).toNat = binary64.pack (decide (x + y < 0)) (binary64.roundMag (x + y).natAbs 1)) ∧
    (x - y ≠ 0 → (f64Sub a b).toNat = binary64.pack (decide (x - y < 0)) (binary64.roundMag (x - y).natAbs 1)) ∧
    (f64Mul a b).toNat =
      binary64.pack (binary64.sign a.toNat ^^ binary64.sign b.toNat)
        (binary64.roundMag (x * y).natAbs (2 ^ 1074)) ∧
    (y ≠ 0 → (f64Div a b).toNat =
      binary64.pack (binary64.sign a.toNat ^^ binary64.sign b.toNat)
        (binary64.roundMag (2 ^ 1074 * x.natAbs) y.natAbs))) ∧
  (∀ num den : Nat, (f32OfRatio num den).toNat = binary32.roundMag (2 ^ 149 * num) den) ∧
  (∀ n : Nat, (f64OfNat n).toNat = binary64.roundMag (2 ^ 1074 * n) 1)

/-- NaN and infinities in ⊕ and ⊗: every NaN result is the canonical quiet NaN, a NaN operand gives it, and so do
∞ ⊗ 0 and ∞ ⊕ (-∞). Added to any other value an infinity stays what it is, and multiplied by any other value it is the
infinity with the product's sign. Multiplying by 1.0 and adding -0.0 leave every other value unchanged, subnormals
included (41_filter_kernel.md R167, R168, R170). -/
def Obligations.SpecialValuesOfArithmetic : Prop :=
  (∀ a b : Sample, Sample.IsNaN a ∨ Sample.IsNaN b → f32Add a b = 0x7FC00000#32 ∧ f32Mul a b = 0x7FC00000#32) ∧
  (∀ a b : Sample, Sample.IsNaN (f32Add a b) → f32Add a b = 0x7FC00000#32) ∧
  (∀ a b : Sample, Sample.IsNaN (f32Mul a b) → f32Mul a b = 0x7FC00000#32) ∧
  (∀ a b : Sample, a.toNat % 2 ^ 31 = 0x7F800000 → b.toNat % 2 ^ 31 = 0 →
    f32Mul a b = 0x7FC00000#32 ∧ f32Mul b a = 0x7FC00000#32) ∧
  (∀ a : Sample, a.toNat % 2 ^ 31 = 0x7F800000 → f32Add a (f32Neg a) = 0x7FC00000#32) ∧
  (∀ a b : Sample, a.toNat % 2 ^ 31 = 0x7F800000 → ¬ Sample.IsNaN b →
    (b ≠ a ^^^ 0x80000000#32 → f32Add a b = a ∧ f32Add b a = a) ∧
    (b.toNat % 2 ^ 31 ≠ 0 →
      f32Mul a b = ((a ^^^ b) &&& 0x80000000#32) ||| 0x7F800000#32 ∧
      f32Mul b a = ((a ^^^ b) &&& 0x80000000#32) ||| 0x7F800000#32)) ∧
  (∀ a : Sample, ¬ Sample.IsNaN a → f32Mul a 0x3F800000#32 = a ∧ f32Add a 0x80000000#32 = a)

/-! ## PROCESS as a whole -/

/-- Completion: in a configured block whose sizes reach, an accepted PROCESS that no port makes wait, its whole offer
presented and its whole room accepted, completes with ERR = OK and without a fault (42_engine.md R219). -/
def Obligations.AcceptedProcessCompletes : Prop :=
  ∀ (s : State) (last : Bool), s.StreamInv → s.SizesReach → RomTotal s.params s.cfgQuality → s.Accepts →
    ∃ t, exec (.process last) s = .next t ∧ t.err = .ok ∧ t.fault = none ∧ t.running = none ∧
      t.configured = true

/-- The accounts of a PROCESS that ends with ERR = OK: RES_IN_USED ≤ OP_IN_COUNT samples, the first ones, were taken
from the input port, RES_OUT_WRITTEN ≤ OP_OUT_ROOM were appended to the output port, and NO_PROGRESS says that both are
0 (10_state.md R36, R46, R47; 20_memory.md R87, R88; 42_engine.md R203). The output port accepts so many fewer from then
on (notes/assumptions/9.md). -/
def Obligations.ProcessAccounting : Prop :=
  ∀ (s t : State) (last : Bool), exec (.process last) s = .next t → t.running = none → t.err = .ok →
    t.resInUsed.toNat ≤ s.opInCount.toNat ∧ t.resOutWritten.toNat ≤ s.opOutRoom.toNat ∧
    t.inPort = s.inPort.drop t.resInUsed.toNat ∧
    (∃ delivered, delivered.length = t.resOutWritten.toNat ∧ t.outPort = s.outPort ++ delivered) ∧
    t.outReady = (s.outReady.map fun r => r - t.resOutWritten.toNat) ∧
    (t.noProgress = true ↔ t.resInUsed = 0#32 ∧ t.resOutWritten = 0#32)

/-- The frame of PROCESS, however it ends: the configuration, the ROM, CONFIGURED, the operands, OVERRUN and the
platform's record stay; a refusal keeps everything but ERR; without a fault, every word of X from XSIZE + XOFF on and
every word of Y from YSIZE on stays (10_state.md R58, R59, R69). -/
def Obligations.ProcessFrame : Prop :=
  ∀ (s t : State) (last : Bool), exec (.process last) s = .next t →
    SameConfiguration s t ∧ SameOperands s t ∧ t.overrun = s.overrun ∧
    t.bus = s.bus ∧ t.answer = s.answer ∧ t.latencies = s.latencies ∧
    (t.fault = none → t.freeCount = s.freeCount ∧
      (∀ i, s.xsize.toNat + s.xoff.toNat ≤ i → t.x.read i = s.x.read i) ∧
      (∀ i, s.ysize.toNat ≤ i → t.y.read i = s.y.read i)) ∧
    (∀ code, processRefusal s = some code → t = { s with running := none, err := code })

/-- The frame of CONFIG, however it ends: the operands, OVERRUN, FAULT, the parameters and the ROM, the ports and the
platform's record stay; outside a fault no word of X from XOFF on and no word of Y is written any more; a failed one
keeps the results, and one refused by the fault everything but ERR (42_engine.md R181, R185). -/
def Obligations.ConfigFrame : Prop :=
  ∀ (s t : State) (quality : Nat) (interp : Bool), exec (.config quality interp) s = .next t →
    SameOperands s t ∧ SamePlatform s t ∧ t.params = s.params ∧ t.overrun = s.overrun ∧ t.fault = s.fault ∧
    SamePorts s t ∧ t.running = none ∧
    (s.fault = none → s.params.xCap ≤ 2 ^ 31 - 1 →
      (∀ i, t.xoff.toNat ≤ i → t.x.read i = none) ∧ (∀ i, t.y.read i = none)) ∧
    (t.err ≠ .ok → SameResults s t) ∧ (s.fault ≠ none → t = { s with running := none, err := .fault })

/-- Step 1: with less room than pending output, PROCESS delivers the first OP_OUT_ROOM pending samples in order, keeps
the rest pending in order, and takes no input (42_engine.md R191), when the output port accepts them. -/
def Obligations.PendingOutputBlocksInput : Prop :=
  ∀ (s : State) (last : Bool), processRefusal s = none → s.opOutRoom.toNat < s.yp.toNat →
    s.Takes s.opOutRoom.toNat → s.yp.toNat ≤ s.ysize.toNat → (∀ i < s.yp.toNat, (s.y.read i).isSome = true) →
    ∃ t, exec (.process last) s = .next t ∧ t.err = .ok ∧ t.running = none ∧ t.resInUsed = 0#32 ∧
      t.resOutWritten = s.opOutRoom ∧ t.noProgress = decide (s.opOutRoom = 0#32) ∧
      t.yp.toNat = s.yp.toNat - s.opOutRoom.toNat ∧
      t.outPort.map some = s.outPort.map some ++ (List.range s.opOutRoom.toNat).map s.y.read ∧
      (∀ j < t.yp.toNat, t.y.read j = s.y.read (j + s.opOutRoom.toNat)) ∧
      t.inPort = s.inPort ∧ t.x = s.x ∧ t.time = s.time ∧ t.xp = s.xp ∧ t.xread = s.xread ∧
      t.flushed = s.flushed ∧ SameConfiguration s t ∧ SameOperands s t ∧ t.fault = s.fault

/-- After the flush a PROCESS with n = 0 only drains, what the output port accepts; once nothing is pending it changes
nothing but the results of the call, which say that no progress was made (42_engine.md R209). -/
def Obligations.AfterTheFlushOnlyDraining : Prop :=
  (∀ (s : State) (last : Bool), processRefusal s = none → s.flushed = true → s.yp.toNat ≤ s.ysize.toNat →
    s.Takes (min s.opOutRoom.toNat s.yp.toNat) → (∀ i < s.yp.toNat, (s.y.read i).isSome = true) →
    ∃ t, exec (.process last) s = .next t ∧ t.err = .ok ∧ t.running = none ∧ t.resInUsed = 0#32 ∧
      t.resOutWritten.toNat = min s.opOutRoom.toNat s.yp.toNat ∧
      t.yp.toNat = s.yp.toNat - min s.opOutRoom.toNat s.yp.toNat ∧
      t.outPort.map some = s.outPort.map some ++
        (List.range (min s.opOutRoom.toNat s.yp.toNat)).map s.y.read ∧
      t.flushed = true ∧ t.x = s.x ∧ t.time = s.time ∧ t.xp = s.xp ∧ t.xread = s.xread ∧ t.inPort = s.inPort) ∧
  (∀ (s : State) (last : Bool), processRefusal s = none → s.flushed = true → s.yp = 0#32 →
    exec (.process last) s = .next { s with
      running := none, err := .ok, resInUsed := 0#32, resOutWritten := 0#32, noProgress := true })

/-- No input, nothing pending and no flush due: PROCESS ends with NO_PROGRESS = 1 and no state change (42_engine.md
R206). -/
def Obligations.NothingEligibleChangesNothing : Prop :=
  ∀ s : State, processRefusal s = none → s.opInCount = 0#32 → s.yp = 0#32 → s.flushed = false →
    s.xread.toNat ≤ 2 * s.xoff.toNat →
    exec (.process false) s = .next { s with
      running := none, err := .ok, resInUsed := 0#32, resOutWritten := 0#32, noProgress := true }

/-- The empty stream: CONFIG followed by a PROCESS with no input and LAST makes no output and leaves the block EXHAUSTED
with NO_PROGRESS = 1 (42_engine.md R210). -/
def Obligations.EmptyStreamExhaustsAtOnce : Prop :=
  ∀ (s u : State) (quality : Nat) (interp : Bool) (f : F64) (room : BitVec 32), s.params.sized = true →
    s.fault = none → exec (.config quality interp) s = .next u → u.err = .ok →
    f64Le u.cfgMinFactor f = true → f64Le f u.cfgMaxFactor = true →
    ∃ t, exec (.process true) { u with opFactor := f, opInCount := 0#32, opOutRoom := room } = .next t ∧
      t.err = .ok ∧ t.engineState = .exhausted ∧ t.noProgress = true ∧ t.outPort = u.outPort ∧
      t.inPort = u.inPort

/-- Progress: an accepted PROCESS with nothing pending, before the flush, with an offer, consumes a sample; one with
output pending and room delivers a sample (42_engine.md R215). -/
def Obligations.AcceptedProcessMakesProgress : Prop :=
  ∀ (s t : State) (last : Bool), s.StreamInv → s.fault = none → exec (.process last) s = .next t →
    t.running = none → t.err = .ok →
    (s.yp = 0#32 → s.flushed = false → s.opInCount ≠ 0#32 → t.resInUsed ≠ 0#32) ∧
    (s.yp ≠ 0#32 → s.opOutRoom ≠ 0#32 → t.resOutWritten ≠ 0#32)

/-- A PROCESS that finds its offer cut short on the input port, or the output port accepting no more, waits: BUSY stays
1 and nothing else has changed; when the host presents or accepts more, it goes on as if it had been so from the start.
It does wait when the first pull needs more than is presented, and when the output port accepts fewer pending samples
than there is room for. A change of what the host presents or accepts changes that and nothing else, in an idle block,
in one whose command has time left and in one that waits (70_reset_and_hazards.md R276, 20_memory.md R87, R89). How the
wait is modelled is the model's choice (notes/assumptions/9.md, 10.md). -/
def Obligations.PortStallKeepsBusy : Prop :=
  (∀ (s t : State) (last : Bool), exec (.process last) s = .next t → t.running ≠ none →
    t = { s with running := some (.process last), busyLeft := 0 } ∧ ¬ s.PortsReady ∧
    ∀ samples ready, s.busyLeft = 0 →
      exec (.process last) { t with inPort := samples, outReady := ready } =
        exec (.process last) { s with inPort := samples, outReady := ready }) ∧
  (∀ (s : State) (last : Bool), processRefusal s = none → s.yp = 0#32 → s.flushed = false →
    s.inPort.length < min (s.xsize.toNat - s.xread.toNat) s.opInCount.toNat →
    exec (.process last) s = .next { s with running := some (.process last), busyLeft := 0 }) ∧
  (∀ (s : State) (last : Bool) (ready : Nat), processRefusal s = none → s.yp.toNat ≤ s.ysize.toNat →
    (∀ i < s.yp.toNat, (s.y.read i).isSome = true) → s.outReady = some ready →
    ready < min s.opOutRoom.toNat s.yp.toNat →
    exec (.process last) s = .next { s with running := some (.process last), busyLeft := 0 }) ∧
  (∀ (s : State) (samples : List Sample) (rest : List HostEvent), s.bus = .offer samples :: rest →
    (s.running = none → step s = .next { s with bus := rest, inPort := samples }) ∧
    (∀ i k, s.running = some i → s.busyLeft = k + 1 →
      step s = .next { s with bus := rest, inPort := samples, busyLeft := k }) ∧
    (∀ i u, s.WaitsAs i u → step s = .next { u with bus := rest, inPort := samples })) ∧
  (∀ (s : State) (ready : Option Nat) (rest : List HostEvent), s.bus = .accept ready :: rest →
    (s.running = none → step s = .next { s with bus := rest, outReady := ready }) ∧
    (∀ i k, s.running = some i → s.busyLeft = k + 1 →
      step s = .next { s with bus := rest, outReady := ready, busyLeft := k }) ∧
    (∀ i u, s.WaitsAs i u → step s = .next { u with bus := rest, outReady := ready }))

/-- The transitions of the engine state that commands make, for commands that end without a new fault, row by row of the
table of 42_engine.md R213. From AWAITING_INPUT, and from DRAINING with room enough before the flush, a PROCESS that
ends with ERR = OK flushes exactly when LAST is set and the whole offer was taken. A flush from DRAINING that leaves
nothing pending ends in EXHAUSTED by the pseudocode, an outcome that the table does not name
(notes/assumptions/29.md). -/
def Obligations.EngineStateTransitions : Prop :=
  ∀ (s t : State) (i : Instr), s.running = none → exec i s = .next t → t.running = none → t.fault = s.fault →
    (s.engineState = .faulted → t.engineState = .faulted ∧ t.err = .fault) ∧
    (∀ quality interp, i = .config quality interp → s.engineState ≠ .faulted →
      t.err = .ok ∧ t.engineState = .awaitingInput ∨
      (t.err = .bounds ∨ t.err = .quality ∨ t.err = .capacity) ∧ t.engineState = .unconfigured) ∧
    (∀ last, i = .process last →
      (s.engineState = .unconfigured → t.err = .notConfigured ∧ t.engineState = .unconfigured) ∧
      (t.err = .factor ∨ t.err = .exhausted → t.engineState = s.engineState) ∧
      (s.engineState = .exhausted → t.engineState = .exhausted) ∧
      (s.engineState = .draining → t.err = .ok → s.opOutRoom.toNat < s.yp.toNat → t.engineState = .draining) ∧
      (s.engineState = .draining → t.err = .ok → s.yp.toNat ≤ s.opOutRoom.toNat → s.flushed = true →
        t.engineState = .exhausted) ∧
      (s.engineState = .awaitingInput ∨
          s.engineState = .draining ∧ s.yp.toNat ≤ s.opOutRoom.toNat ∧ s.flushed = false →
        t.err = .ok →
        (t.flushed = true ↔ last = true ∧ t.resInUsed = s.opInCount) ∧
        (t.yp = 0#32 → t.flushed = false → t.engineState = .awaitingInput) ∧
        (t.yp ≠ 0#32 → t.engineState = .draining) ∧
        (t.yp = 0#32 → t.flushed = true → t.engineState = .exhausted)))

/-! ## The whole machine -/

/-- Every step keeps the invariants between commands (10_state.md R65 to R67), with the memories canonical, the
parameters as they are and the creep bounded by XOFF. -/
def Obligations.StepKeepsStreamInvariant : Prop :=
  ∀ s t : State, s.StreamInv → step s = .next t → t.StreamInv

/-- The invariants hold after power-on, and in every instance the model builds whose wing lengths fit NWING, where the
conditions under which no fault happens hold too (00_scope.md R8, 10_state.md R65 to R67, 42_engine.md R219;
notes/assumptions/16.md). -/
def Obligations.ResetHasStreamInvariant : Prop :=
  State.reset.StreamInv ∧
  ∀ (p : Params) (s : State), State.instantiate p = some s → p.nwingFast < 2 ^ 32 → p.nwingHigh < 2 ^ 32 →
    s.Sound

/-- Every step keeps X and Y in canonical form, whatever else holds (20_memory.md R84, R85). -/
def Obligations.StepKeepsMemoriesCanonical : Prop :=
  ∀ s t : State, s.MemoriesCanonical → step s = .next t → t.MemoriesCanonical

/-- A PROCESS never changes the configuration, and no step changes it but one that runs CONFIG or serves a reset; no
step at all changes the parameters and the ROM (10_state.md R69). -/
def Obligations.OnlyConfigAndResetChangeTheConfiguration : Prop :=
  (∀ (s t : State) (last : Bool), exec (.process last) s = .next t → SameConfiguration s t) ∧
  (∀ s t : State, step s = .next t → SameConfiguration s t ∨ s.runsConfig ∨ s.resetNext) ∧
  (∀ s t : State, step s = .next t → t.params = s.params)

/-! ## The stream -/

/-- One PROCESS carries the stream on: from a state that has consumed `pos` samples and made `made` outputs, a PROCESS
that offers the next samples ends in a state that has consumed RES_IN_USED more, and what it delivered are the next
outputs of the closed form, none lost, repeated or reordered (42_engine.md R220, R221; 20_memory.md R88). -/
def Obligations.ProcessContinuesTheStream : Prop :=
  ∀ (s t : State) (last : Bool) (stream : List Sample) (pos made base : Nat), s.StreamInv → s.SizesReach →
    RomTotal s.params s.cfgQuality → s.Accepts → s.Tracks stream pos made base →
    s.inPort.take s.opInCount.toNat = (stream.drop pos).take s.opInCount.toNat →
    pos + s.opInCount.toNat ≤ stream.length → (last = true → pos + s.opInCount.toNat = stream.length) →
    exec (.process last) s = .next t →
    ∃ made' base', t.Tracks stream (pos + t.resInUsed.toNat) made' base' ∧ made ≤ made' ∧
      t.outPort.map some = s.outPort.map some ++
        (List.range t.resOutWritten.toNat).map (fun k =>
          closedForm (s.call last) stream (made - s.yp.toNat + k)) ∧
      made' - t.yp.toNat = made - s.yp.toNat + t.resOutWritten.toNat

/-- Chunking invariance: after a CONFIG, any list of PROCESS commands with one factor that streams `stream` to its end
and drains it, in offers and rooms of any sizes, delivers the closed form, sample for sample (42_engine.md R220,
R221). -/
def Obligations.ChunkingInvariance : Prop :=
  ∀ (s t : State) (stream : List Sample) (calls : List (Nat × Nat)) (pos : Nat), s.StreamInv → s.SizesReach →
    RomTotal s.params s.cfgQuality → s.configured = true → s.fault = none →
    f64Le s.cfgMinFactor s.opFactor = true → f64Le s.opFactor s.cfgMaxFactor = true →
    s.Tracks stream 0 0 0 → s.flushed = false → (∀ call ∈ calls, call.1 < 2 ^ 32 ∧ call.2 < 2 ^ 32) →
    streamCalls stream calls 0 s = some (pos, t) → t.engineState = .exhausted →
    pos = stream.length ∧
    t.outPort.map some = s.outPort.map some ++
      (List.range ((2 ^ 32 * stream.length + timeStep s.opFactor - 1) / timeStep s.opFactor)).map
        (closedForm (s.call false) stream)

/-! ## No fault -/

/-- No step sets FAULT: from a state with no fault, whose invariants hold, whose sizes reach for every accepted factor
while it is configured, and whose ROMs are complete, every step gives such a state again, whatever the host does, be the
ports ready or not (42_engine.md R219). -/
def Obligations.NoStepFaults : Prop :=
  ∀ s t : State, s.Sound → step s = .next t → t.Sound

end Statements
end

