-- ==== Sys2Proof/Laws/State.lean ====
section
/-! SUPPORT. One lemma per field per update of State, true by rfl, so that no proof unfolds a record update. -/

namespace Sys2Proof.Machine

variable (s : State)

@[simp] theorem State.raiseErr_params (code : ErrCode) : (s.raiseErr code).params = s.params := rfl
@[simp] theorem State.raiseErr_opMinFactor (code : ErrCode) : (s.raiseErr code).opMinFactor = s.opMinFactor := rfl
@[simp] theorem State.raiseErr_opMaxFactor (code : ErrCode) : (s.raiseErr code).opMaxFactor = s.opMaxFactor := rfl
@[simp] theorem State.raiseErr_opFactor (code : ErrCode) : (s.raiseErr code).opFactor = s.opFactor := rfl
@[simp] theorem State.raiseErr_opInCount (code : ErrCode) : (s.raiseErr code).opInCount = s.opInCount := rfl
@[simp] theorem State.raiseErr_opOutRoom (code : ErrCode) : (s.raiseErr code).opOutRoom = s.opOutRoom := rfl
@[simp] theorem State.raiseErr_resInUsed (code : ErrCode) : (s.raiseErr code).resInUsed = s.resInUsed := rfl
@[simp] theorem State.raiseErr_resOutWritten (code : ErrCode) : (s.raiseErr code).resOutWritten = s.resOutWritten := rfl
@[simp] theorem State.raiseErr_configured (code : ErrCode) : (s.raiseErr code).configured = s.configured := rfl
@[simp] theorem State.raiseErr_running (code : ErrCode) : (s.raiseErr code).running = none := rfl
@[simp] theorem State.raiseErr_noProgress (code : ErrCode) : (s.raiseErr code).noProgress = s.noProgress := rfl
@[simp] theorem State.raiseErr_flushed (code : ErrCode) : (s.raiseErr code).flushed = s.flushed := rfl
@[simp] theorem State.raiseErr_fault (code : ErrCode) : (s.raiseErr code).fault = s.fault := rfl
@[simp] theorem State.raiseErr_overrun (code : ErrCode) : (s.raiseErr code).overrun = s.overrun := rfl
@[simp] theorem State.raiseErr_err (code : ErrCode) : (s.raiseErr code).err = code := rfl
@[simp] theorem State.raiseErr_cfgQuality (code : ErrCode) : (s.raiseErr code).cfgQuality = s.cfgQuality := rfl
@[simp] theorem State.raiseErr_cfgInterp (code : ErrCode) : (s.raiseErr code).cfgInterp = s.cfgInterp := rfl
@[simp] theorem State.raiseErr_cfgMinFactor (code : ErrCode) : (s.raiseErr code).cfgMinFactor = s.cfgMinFactor := rfl
@[simp] theorem State.raiseErr_cfgMaxFactor (code : ErrCode) : (s.raiseErr code).cfgMaxFactor = s.cfgMaxFactor := rfl
@[simp] theorem State.raiseErr_xoff (code : ErrCode) : (s.raiseErr code).xoff = s.xoff := rfl
@[simp] theorem State.raiseErr_xsize (code : ErrCode) : (s.raiseErr code).xsize = s.xsize := rfl
@[simp] theorem State.raiseErr_ysize (code : ErrCode) : (s.raiseErr code).ysize = s.ysize := rfl
@[simp] theorem State.raiseErr_nwing (code : ErrCode) : (s.raiseErr code).nwing = s.nwing := rfl
@[simp] theorem State.raiseErr_time (code : ErrCode) : (s.raiseErr code).time = s.time := rfl
@[simp] theorem State.raiseErr_xp (code : ErrCode) : (s.raiseErr code).xp = s.xp := rfl
@[simp] theorem State.raiseErr_xread (code : ErrCode) : (s.raiseErr code).xread = s.xread := rfl
@[simp] theorem State.raiseErr_yp (code : ErrCode) : (s.raiseErr code).yp = s.yp := rfl
@[simp] theorem State.raiseErr_x (code : ErrCode) : (s.raiseErr code).x = s.x := rfl
@[simp] theorem State.raiseErr_y (code : ErrCode) : (s.raiseErr code).y = s.y := rfl
@[simp] theorem State.raiseErr_inPort (code : ErrCode) : (s.raiseErr code).inPort = s.inPort := rfl
@[simp] theorem State.raiseErr_outPort (code : ErrCode) : (s.raiseErr code).outPort = s.outPort := rfl
@[simp] theorem State.raiseErr_outReady (code : ErrCode) : (s.raiseErr code).outReady = s.outReady := rfl
@[simp] theorem State.raiseErr_bus (code : ErrCode) : (s.raiseErr code).bus = s.bus := rfl
@[simp] theorem State.raiseErr_answer (code : ErrCode) : (s.raiseErr code).answer = s.answer := rfl
@[simp] theorem State.raiseErr_latencies (code : ErrCode) : (s.raiseErr code).latencies = s.latencies := rfl
@[simp] theorem State.raiseErr_busyLeft (code : ErrCode) : (s.raiseErr code).busyLeft = s.busyLeft := rfl
@[simp] theorem State.raiseErr_freeCount (code : ErrCode) : (s.raiseErr code).freeCount = s.freeCount := rfl

@[simp] theorem State.waitPort_params (i : Instr) : (s.waitPort i).params = s.params := rfl
@[simp] theorem State.waitPort_opMinFactor (i : Instr) : (s.waitPort i).opMinFactor = s.opMinFactor := rfl
@[simp] theorem State.waitPort_opMaxFactor (i : Instr) : (s.waitPort i).opMaxFactor = s.opMaxFactor := rfl
@[simp] theorem State.waitPort_opFactor (i : Instr) : (s.waitPort i).opFactor = s.opFactor := rfl
@[simp] theorem State.waitPort_opInCount (i : Instr) : (s.waitPort i).opInCount = s.opInCount := rfl
@[simp] theorem State.waitPort_opOutRoom (i : Instr) : (s.waitPort i).opOutRoom = s.opOutRoom := rfl
@[simp] theorem State.waitPort_resInUsed (i : Instr) : (s.waitPort i).resInUsed = s.resInUsed := rfl
@[simp] theorem State.waitPort_resOutWritten (i : Instr) : (s.waitPort i).resOutWritten = s.resOutWritten := rfl
@[simp] theorem State.waitPort_configured (i : Instr) : (s.waitPort i).configured = s.configured := rfl
@[simp] theorem State.waitPort_running (i : Instr) : (s.waitPort i).running = some i := rfl
@[simp] theorem State.waitPort_noProgress (i : Instr) : (s.waitPort i).noProgress = s.noProgress := rfl
@[simp] theorem State.waitPort_flushed (i : Instr) : (s.waitPort i).flushed = s.flushed := rfl
@[simp] theorem State.waitPort_fault (i : Instr) : (s.waitPort i).fault = s.fault := rfl
@[simp] theorem State.waitPort_overrun (i : Instr) : (s.waitPort i).overrun = s.overrun := rfl
@[simp] theorem State.waitPort_err (i : Instr) : (s.waitPort i).err = s.err := rfl
@[simp] theorem State.waitPort_cfgQuality (i : Instr) : (s.waitPort i).cfgQuality = s.cfgQuality := rfl
@[simp] theorem State.waitPort_cfgInterp (i : Instr) : (s.waitPort i).cfgInterp = s.cfgInterp := rfl
@[simp] theorem State.waitPort_cfgMinFactor (i : Instr) : (s.waitPort i).cfgMinFactor = s.cfgMinFactor := rfl
@[simp] theorem State.waitPort_cfgMaxFactor (i : Instr) : (s.waitPort i).cfgMaxFactor = s.cfgMaxFactor := rfl
@[simp] theorem State.waitPort_xoff (i : Instr) : (s.waitPort i).xoff = s.xoff := rfl
@[simp] theorem State.waitPort_xsize (i : Instr) : (s.waitPort i).xsize = s.xsize := rfl
@[simp] theorem State.waitPort_ysize (i : Instr) : (s.waitPort i).ysize = s.ysize := rfl
@[simp] theorem State.waitPort_nwing (i : Instr) : (s.waitPort i).nwing = s.nwing := rfl
@[simp] theorem State.waitPort_time (i : Instr) : (s.waitPort i).time = s.time := rfl
@[simp] theorem State.waitPort_xp (i : Instr) : (s.waitPort i).xp = s.xp := rfl
@[simp] theorem State.waitPort_xread (i : Instr) : (s.waitPort i).xread = s.xread := rfl
@[simp] theorem State.waitPort_yp (i : Instr) : (s.waitPort i).yp = s.yp := rfl
@[simp] theorem State.waitPort_x (i : Instr) : (s.waitPort i).x = s.x := rfl
@[simp] theorem State.waitPort_y (i : Instr) : (s.waitPort i).y = s.y := rfl
@[simp] theorem State.waitPort_inPort (i : Instr) : (s.waitPort i).inPort = s.inPort := rfl
@[simp] theorem State.waitPort_outPort (i : Instr) : (s.waitPort i).outPort = s.outPort := rfl
@[simp] theorem State.waitPort_outReady (i : Instr) : (s.waitPort i).outReady = s.outReady := rfl
@[simp] theorem State.waitPort_bus (i : Instr) : (s.waitPort i).bus = s.bus := rfl
@[simp] theorem State.waitPort_answer (i : Instr) : (s.waitPort i).answer = s.answer := rfl
@[simp] theorem State.waitPort_latencies (i : Instr) : (s.waitPort i).latencies = s.latencies := rfl
@[simp] theorem State.waitPort_busyLeft (i : Instr) : (s.waitPort i).busyLeft = 0 := rfl
@[simp] theorem State.waitPort_freeCount (i : Instr) : (s.waitPort i).freeCount = s.freeCount := rfl

@[simp] theorem State.finishProcess_params (w : Work) : (s.finishProcess w).params = s.params := rfl
@[simp] theorem State.finishProcess_opMinFactor (w : Work) : (s.finishProcess w).opMinFactor = s.opMinFactor := rfl
@[simp] theorem State.finishProcess_opMaxFactor (w : Work) : (s.finishProcess w).opMaxFactor = s.opMaxFactor := rfl
@[simp] theorem State.finishProcess_opFactor (w : Work) : (s.finishProcess w).opFactor = s.opFactor := rfl
@[simp] theorem State.finishProcess_opInCount (w : Work) : (s.finishProcess w).opInCount = s.opInCount := rfl
@[simp] theorem State.finishProcess_opOutRoom (w : Work) : (s.finishProcess w).opOutRoom = s.opOutRoom := rfl
@[simp] theorem State.finishProcess_resInUsed (w : Work) : (s.finishProcess w).resInUsed = BitVec.ofNat 32 w.used := rfl
@[simp] theorem State.finishProcess_resOutWritten (w : Work) :
    (s.finishProcess w).resOutWritten = BitVec.ofNat 32 w.written := rfl
@[simp] theorem State.finishProcess_configured (w : Work) : (s.finishProcess w).configured = s.configured := rfl
@[simp] theorem State.finishProcess_running (w : Work) : (s.finishProcess w).running = none := rfl
@[simp] theorem State.finishProcess_noProgress (w : Work) :
    (s.finishProcess w).noProgress = decide (w.used = 0 ∧ w.written = 0) := rfl
@[simp] theorem State.finishProcess_flushed (w : Work) : (s.finishProcess w).flushed = w.flushed := rfl
@[simp] theorem State.finishProcess_fault (w : Work) : (s.finishProcess w).fault = s.fault := rfl
@[simp] theorem State.finishProcess_overrun (w : Work) : (s.finishProcess w).overrun = s.overrun := rfl
@[simp] theorem State.finishProcess_err (w : Work) : (s.finishProcess w).err = .ok := rfl
@[simp] theorem State.finishProcess_cfgQuality (w : Work) : (s.finishProcess w).cfgQuality = s.cfgQuality := rfl
@[simp] theorem State.finishProcess_cfgInterp (w : Work) : (s.finishProcess w).cfgInterp = s.cfgInterp := rfl
@[simp] theorem State.finishProcess_cfgMinFactor (w : Work) : (s.finishProcess w).cfgMinFactor = s.cfgMinFactor := rfl
@[simp] theorem State.finishProcess_cfgMaxFactor (w : Work) : (s.finishProcess w).cfgMaxFactor = s.cfgMaxFactor := rfl
@[simp] theorem State.finishProcess_xoff (w : Work) : (s.finishProcess w).xoff = s.xoff := rfl
@[simp] theorem State.finishProcess_xsize (w : Work) : (s.finishProcess w).xsize = s.xsize := rfl
@[simp] theorem State.finishProcess_ysize (w : Work) : (s.finishProcess w).ysize = s.ysize := rfl
@[simp] theorem State.finishProcess_nwing (w : Work) : (s.finishProcess w).nwing = s.nwing := rfl
@[simp] theorem State.finishProcess_time (w : Work) : (s.finishProcess w).time = BitVec.ofNat 64 w.time := rfl
@[simp] theorem State.finishProcess_xp (w : Work) : (s.finishProcess w).xp = BitVec.ofNat 32 w.xp := rfl
@[simp] theorem State.finishProcess_xread (w : Work) : (s.finishProcess w).xread = BitVec.ofNat 32 w.xread := rfl
@[simp] theorem State.finishProcess_yp (w : Work) : (s.finishProcess w).yp = BitVec.ofNat 32 w.yp := rfl
@[simp] theorem State.finishProcess_x (w : Work) : (s.finishProcess w).x = w.x := rfl
@[simp] theorem State.finishProcess_y (w : Work) : (s.finishProcess w).y = w.y := rfl
@[simp] theorem State.finishProcess_inPort (w : Work) : (s.finishProcess w).inPort = s.inPort.drop w.used := rfl
@[simp] theorem State.finishProcess_outPort (w : Work) : (s.finishProcess w).outPort = s.outPort ++ w.out := rfl
@[simp] theorem State.finishProcess_outReady (w : Work) :
    (s.finishProcess w).outReady = s.outReady.map fun r => r - w.written := rfl
@[simp] theorem State.finishProcess_bus (w : Work) : (s.finishProcess w).bus = s.bus := rfl
@[simp] theorem State.finishProcess_answer (w : Work) : (s.finishProcess w).answer = s.answer := rfl
@[simp] theorem State.finishProcess_latencies (w : Work) : (s.finishProcess w).latencies = s.latencies := rfl
@[simp] theorem State.finishProcess_busyLeft (w : Work) : (s.finishProcess w).busyLeft = s.busyLeft := rfl
@[simp] theorem State.finishProcess_freeCount (w : Work) : (s.finishProcess w).freeCount = s.freeCount := rfl

@[simp] theorem State.raiseFault_params (cause : FaultCause) (w : Work) : (s.raiseFault cause w).params = s.params :=
  rfl
@[simp] theorem State.raiseFault_opMinFactor (cause : FaultCause) (w : Work) :
    (s.raiseFault cause w).opMinFactor = s.opMinFactor := rfl
@[simp] theorem State.raiseFault_opMaxFactor (cause : FaultCause) (w : Work) :
    (s.raiseFault cause w).opMaxFactor = s.opMaxFactor := rfl
@[simp] theorem State.raiseFault_opFactor (cause : FaultCause) (w : Work) :
    (s.raiseFault cause w).opFactor = s.opFactor := rfl
@[simp] theorem State.raiseFault_opInCount (cause : FaultCause) (w : Work) :
    (s.raiseFault cause w).opInCount = s.opInCount := rfl
@[simp] theorem State.raiseFault_opOutRoom (cause : FaultCause) (w : Work) :
    (s.raiseFault cause w).opOutRoom = s.opOutRoom := rfl
@[simp] theorem State.raiseFault_resInUsed (cause : FaultCause) (w : Work) :
    (s.raiseFault cause w).resInUsed = (Config.freeWord s.freeCount).setWidth 32 := rfl
@[simp] theorem State.raiseFault_resOutWritten (cause : FaultCause) (w : Work) :
    (s.raiseFault cause w).resOutWritten = (Config.freeWord (s.freeCount + 1)).setWidth 32 := rfl
@[simp] theorem State.raiseFault_configured (cause : FaultCause) (w : Work) :
    (s.raiseFault cause w).configured = s.configured := rfl
@[simp] theorem State.raiseFault_running (cause : FaultCause) (w : Work) : (s.raiseFault cause w).running = none := rfl
@[simp] theorem State.raiseFault_noProgress (cause : FaultCause) (w : Work) :
    (s.raiseFault cause w).noProgress = (Config.freeWord (s.freeCount + 2)).getLsbD 0 := rfl
@[simp] theorem State.raiseFault_flushed (cause : FaultCause) (w : Work) :
    (s.raiseFault cause w).flushed = (Config.freeWord (s.freeCount + 3)).getLsbD 0 := rfl
@[simp] theorem State.raiseFault_fault (cause : FaultCause) (w : Work) : (s.raiseFault cause w).fault = some cause :=
  rfl
@[simp] theorem State.raiseFault_overrun (cause : FaultCause) (w : Work) : (s.raiseFault cause w).overrun = s.overrun :=
  rfl
@[simp] theorem State.raiseFault_err (cause : FaultCause) (w : Work) : (s.raiseFault cause w).err = .fault := rfl
@[simp] theorem State.raiseFault_cfgQuality (cause : FaultCause) (w : Work) :
    (s.raiseFault cause w).cfgQuality = s.cfgQuality := rfl
@[simp] theorem State.raiseFault_cfgInterp (cause : FaultCause) (w : Work) :
    (s.raiseFault cause w).cfgInterp = s.cfgInterp := rfl
@[simp] theorem State.raiseFault_cfgMinFactor (cause : FaultCause) (w : Work) :
    (s.raiseFault cause w).cfgMinFactor = s.cfgMinFactor := rfl
@[simp] theorem State.raiseFault_cfgMaxFactor (cause : FaultCause) (w : Work) :
    (s.raiseFault cause w).cfgMaxFactor = s.cfgMaxFactor := rfl
@[simp] theorem State.raiseFault_xoff (cause : FaultCause) (w : Work) : (s.raiseFault cause w).xoff = s.xoff := rfl
@[simp] theorem State.raiseFault_xsize (cause : FaultCause) (w : Work) : (s.raiseFault cause w).xsize = s.xsize := rfl
@[simp] theorem State.raiseFault_ysize (cause : FaultCause) (w : Work) : (s.raiseFault cause w).ysize = s.ysize := rfl
@[simp] theorem State.raiseFault_nwing (cause : FaultCause) (w : Work) : (s.raiseFault cause w).nwing = s.nwing := rfl
@[simp] theorem State.raiseFault_time (cause : FaultCause) (w : Work) :
    (s.raiseFault cause w).time = Config.freeWord (s.freeCount + 4) := rfl
@[simp] theorem State.raiseFault_xp (cause : FaultCause) (w : Work) :
    (s.raiseFault cause w).xp = (Config.freeWord (s.freeCount + 5)).setWidth 32 := rfl
@[simp] theorem State.raiseFault_xread (cause : FaultCause) (w : Work) :
    (s.raiseFault cause w).xread = (Config.freeWord (s.freeCount + 6)).setWidth 32 := rfl
@[simp] theorem State.raiseFault_yp (cause : FaultCause) (w : Work) :
    (s.raiseFault cause w).yp = (Config.freeWord (s.freeCount + 7)).setWidth 32 := rfl
@[simp] theorem State.raiseFault_x (cause : FaultCause) (w : Work) :
    (s.raiseFault cause w).x = Memory.unspecified s.freeCount s.params.xCap := rfl
@[simp] theorem State.raiseFault_y (cause : FaultCause) (w : Work) :
    (s.raiseFault cause w).y = Memory.unspecified (s.freeCount + 1) s.params.yCap := rfl
@[simp] theorem State.raiseFault_inPort (cause : FaultCause) (w : Work) :
    (s.raiseFault cause w).inPort = s.inPort.drop w.used := rfl
@[simp] theorem State.raiseFault_outPort (cause : FaultCause) (w : Work) :
    (s.raiseFault cause w).outPort = s.outPort ++ w.out := rfl
@[simp] theorem State.raiseFault_outReady (cause : FaultCause) (w : Work) :
    (s.raiseFault cause w).outReady = s.outReady.map fun r => r - w.written := rfl
@[simp] theorem State.raiseFault_bus (cause : FaultCause) (w : Work) : (s.raiseFault cause w).bus = s.bus := rfl
@[simp] theorem State.raiseFault_answer (cause : FaultCause) (w : Work) : (s.raiseFault cause w).answer = s.answer :=
  rfl
@[simp] theorem State.raiseFault_latencies (cause : FaultCause) (w : Work) :
    (s.raiseFault cause w).latencies = s.latencies := rfl
@[simp] theorem State.raiseFault_busyLeft (cause : FaultCause) (w : Work) :
    (s.raiseFault cause w).busyLeft = s.busyLeft := rfl
@[simp] theorem State.raiseFault_freeCount (cause : FaultCause) (w : Work) :
    (s.raiseFault cause w).freeCount = s.freeCount + 8 := rfl

@[simp] theorem State.startStream_params (q : Quality) (interp : Bool) (z : Sizes) :
    (s.startStream q interp z).params = s.params := rfl
@[simp] theorem State.startStream_opMinFactor (q : Quality) (interp : Bool) (z : Sizes) :
    (s.startStream q interp z).opMinFactor = s.opMinFactor := rfl
@[simp] theorem State.startStream_opMaxFactor (q : Quality) (interp : Bool) (z : Sizes) :
    (s.startStream q interp z).opMaxFactor = s.opMaxFactor := rfl
@[simp] theorem State.startStream_opFactor (q : Quality) (interp : Bool) (z : Sizes) :
    (s.startStream q interp z).opFactor = s.opFactor := rfl
@[simp] theorem State.startStream_opInCount (q : Quality) (interp : Bool) (z : Sizes) :
    (s.startStream q interp z).opInCount = s.opInCount := rfl
@[simp] theorem State.startStream_opOutRoom (q : Quality) (interp : Bool) (z : Sizes) :
    (s.startStream q interp z).opOutRoom = s.opOutRoom := rfl
@[simp] theorem State.startStream_resInUsed (q : Quality) (interp : Bool) (z : Sizes) :
    (s.startStream q interp z).resInUsed = 0#32 := rfl
@[simp] theorem State.startStream_resOutWritten (q : Quality) (interp : Bool) (z : Sizes) :
    (s.startStream q interp z).resOutWritten = 0#32 := rfl
@[simp] theorem State.startStream_configured (q : Quality) (interp : Bool) (z : Sizes) :
    (s.startStream q interp z).configured = true := rfl
@[simp] theorem State.startStream_running (q : Quality) (interp : Bool) (z : Sizes) :
    (s.startStream q interp z).running = none := rfl
@[simp] theorem State.startStream_noProgress (q : Quality) (interp : Bool) (z : Sizes) :
    (s.startStream q interp z).noProgress = false := rfl
@[simp] theorem State.startStream_flushed (q : Quality) (interp : Bool) (z : Sizes) :
    (s.startStream q interp z).flushed = false := rfl
@[simp] theorem State.startStream_fault (q : Quality) (interp : Bool) (z : Sizes) :
    (s.startStream q interp z).fault = s.fault := rfl
@[simp] theorem State.startStream_overrun (q : Quality) (interp : Bool) (z : Sizes) :
    (s.startStream q interp z).overrun = s.overrun := rfl
@[simp] theorem State.startStream_err (q : Quality) (interp : Bool) (z : Sizes) :
    (s.startStream q interp z).err = .ok := rfl
@[simp] theorem State.startStream_cfgQuality (q : Quality) (interp : Bool) (z : Sizes) :
    (s.startStream q interp z).cfgQuality = q := rfl
@[simp] theorem State.startStream_cfgInterp (q : Quality) (interp : Bool) (z : Sizes) :
    (s.startStream q interp z).cfgInterp = interp := rfl
@[simp] theorem State.startStream_cfgMinFactor (q : Quality) (interp : Bool) (z : Sizes) :
    (s.startStream q interp z).cfgMinFactor = s.opMinFactor := rfl
@[simp] theorem State.startStream_cfgMaxFactor (q : Quality) (interp : Bool) (z : Sizes) :
    (s.startStream q interp z).cfgMaxFactor = s.opMaxFactor := rfl
@[simp] theorem State.startStream_xoff (q : Quality) (interp : Bool) (z : Sizes) :
    (s.startStream q interp z).xoff = BitVec.ofNat 32 z.xoff := rfl
@[simp] theorem State.startStream_xsize (q : Quality) (interp : Bool) (z : Sizes) :
    (s.startStream q interp z).xsize = BitVec.ofNat 32 z.xsize := rfl
@[simp] theorem State.startStream_ysize (q : Quality) (interp : Bool) (z : Sizes) :
    (s.startStream q interp z).ysize = BitVec.ofNat 32 z.ysize := rfl
@[simp] theorem State.startStream_nwing (q : Quality) (interp : Bool) (z : Sizes) :
    (s.startStream q interp z).nwing = BitVec.ofNat 32 (s.params.nwing q) := rfl
@[simp] theorem State.startStream_time (q : Quality) (interp : Bool) (z : Sizes) :
    (s.startStream q interp z).time = BitVec.ofNat 64 (2 ^ 32 * z.xoff) := rfl
@[simp] theorem State.startStream_xp (q : Quality) (interp : Bool) (z : Sizes) :
    (s.startStream q interp z).xp = BitVec.ofNat 32 z.xoff := rfl
@[simp] theorem State.startStream_xread (q : Quality) (interp : Bool) (z : Sizes) :
    (s.startStream q interp z).xread = BitVec.ofNat 32 z.xoff := rfl
@[simp] theorem State.startStream_yp (q : Quality) (interp : Bool) (z : Sizes) : (s.startStream q interp z).yp = 0#32 :=
  rfl
@[simp] theorem State.startStream_x (q : Quality) (interp : Bool) (z : Sizes) :
    (s.startStream q interp z).x = Memory.zeros z.xoff := rfl
@[simp] theorem State.startStream_y (q : Quality) (interp : Bool) (z : Sizes) : (s.startStream q interp z).y = [] := rfl
@[simp] theorem State.startStream_inPort (q : Quality) (interp : Bool) (z : Sizes) :
    (s.startStream q interp z).inPort = s.inPort := rfl
@[simp] theorem State.startStream_outPort (q : Quality) (interp : Bool) (z : Sizes) :
    (s.startStream q interp z).outPort = s.outPort := rfl
@[simp] theorem State.startStream_outReady (q : Quality) (interp : Bool) (z : Sizes) :
    (s.startStream q interp z).outReady = s.outReady := rfl
@[simp] theorem State.startStream_bus (q : Quality) (interp : Bool) (z : Sizes) :
    (s.startStream q interp z).bus = s.bus := rfl
@[simp] theorem State.startStream_answer (q : Quality) (interp : Bool) (z : Sizes) :
    (s.startStream q interp z).answer = s.answer := rfl
@[simp] theorem State.startStream_latencies (q : Quality) (interp : Bool) (z : Sizes) :
    (s.startStream q interp z).latencies = s.latencies := rfl
@[simp] theorem State.startStream_busyLeft (q : Quality) (interp : Bool) (z : Sizes) :
    (s.startStream q interp z).busyLeft = s.busyLeft := rfl
@[simp] theorem State.startStream_freeCount (q : Quality) (interp : Bool) (z : Sizes) :
    (s.startStream q interp z).freeCount = s.freeCount := rfl

@[simp] theorem State.movePorts_params (moves : List Transfer) : (s.movePorts moves).params = s.params := rfl
@[simp] theorem State.movePorts_opMinFactor (moves : List Transfer) : (s.movePorts moves).opMinFactor = s.opMinFactor :=
  rfl
@[simp] theorem State.movePorts_opMaxFactor (moves : List Transfer) : (s.movePorts moves).opMaxFactor = s.opMaxFactor :=
  rfl
@[simp] theorem State.movePorts_opFactor (moves : List Transfer) : (s.movePorts moves).opFactor = s.opFactor := rfl
@[simp] theorem State.movePorts_opInCount (moves : List Transfer) : (s.movePorts moves).opInCount = s.opInCount := rfl
@[simp] theorem State.movePorts_opOutRoom (moves : List Transfer) : (s.movePorts moves).opOutRoom = s.opOutRoom := rfl
@[simp] theorem State.movePorts_resInUsed (moves : List Transfer) : (s.movePorts moves).resInUsed = s.resInUsed := rfl
@[simp] theorem State.movePorts_resOutWritten (moves : List Transfer) :
    (s.movePorts moves).resOutWritten = s.resOutWritten := rfl
@[simp] theorem State.movePorts_configured (moves : List Transfer) : (s.movePorts moves).configured = s.configured :=
  rfl
@[simp] theorem State.movePorts_running (moves : List Transfer) : (s.movePorts moves).running = s.running := rfl
@[simp] theorem State.movePorts_noProgress (moves : List Transfer) : (s.movePorts moves).noProgress = s.noProgress :=
  rfl
@[simp] theorem State.movePorts_flushed (moves : List Transfer) : (s.movePorts moves).flushed = s.flushed := rfl
@[simp] theorem State.movePorts_fault (moves : List Transfer) : (s.movePorts moves).fault = s.fault := rfl
@[simp] theorem State.movePorts_overrun (moves : List Transfer) : (s.movePorts moves).overrun = s.overrun := rfl
@[simp] theorem State.movePorts_err (moves : List Transfer) : (s.movePorts moves).err = s.err := rfl
@[simp] theorem State.movePorts_cfgQuality (moves : List Transfer) : (s.movePorts moves).cfgQuality = s.cfgQuality :=
  rfl
@[simp] theorem State.movePorts_cfgInterp (moves : List Transfer) : (s.movePorts moves).cfgInterp = s.cfgInterp := rfl
@[simp] theorem State.movePorts_cfgMinFactor (moves : List Transfer) :
    (s.movePorts moves).cfgMinFactor = s.cfgMinFactor := rfl
@[simp] theorem State.movePorts_cfgMaxFactor (moves : List Transfer) :
    (s.movePorts moves).cfgMaxFactor = s.cfgMaxFactor := rfl
@[simp] theorem State.movePorts_xoff (moves : List Transfer) : (s.movePorts moves).xoff = s.xoff := rfl
@[simp] theorem State.movePorts_xsize (moves : List Transfer) : (s.movePorts moves).xsize = s.xsize := rfl
@[simp] theorem State.movePorts_ysize (moves : List Transfer) : (s.movePorts moves).ysize = s.ysize := rfl
@[simp] theorem State.movePorts_nwing (moves : List Transfer) : (s.movePorts moves).nwing = s.nwing := rfl
@[simp] theorem State.movePorts_time (moves : List Transfer) : (s.movePorts moves).time = s.time := rfl
@[simp] theorem State.movePorts_xp (moves : List Transfer) : (s.movePorts moves).xp = s.xp := rfl
@[simp] theorem State.movePorts_xread (moves : List Transfer) : (s.movePorts moves).xread = s.xread := rfl
@[simp] theorem State.movePorts_yp (moves : List Transfer) : (s.movePorts moves).yp = s.yp := rfl
@[simp] theorem State.movePorts_x (moves : List Transfer) : (s.movePorts moves).x = s.x := rfl
@[simp] theorem State.movePorts_y (moves : List Transfer) : (s.movePorts moves).y = s.y := rfl
@[simp] theorem State.movePorts_inPort (moves : List Transfer) :
    (s.movePorts moves).inPort = s.inPort.drop (inputsOf moves) := rfl
@[simp] theorem State.movePorts_outPort (moves : List Transfer) :
    (s.movePorts moves).outPort = s.outPort ++ outputsOf moves := rfl
@[simp] theorem State.movePorts_outReady (moves : List Transfer) :
    (s.movePorts moves).outReady = s.outReady.map fun r => r - (outputsOf moves).length := rfl
@[simp] theorem State.movePorts_bus (moves : List Transfer) : (s.movePorts moves).bus = s.bus := rfl
@[simp] theorem State.movePorts_answer (moves : List Transfer) : (s.movePorts moves).answer = s.answer := rfl
@[simp] theorem State.movePorts_latencies (moves : List Transfer) : (s.movePorts moves).latencies = s.latencies := rfl
@[simp] theorem State.movePorts_busyLeft (moves : List Transfer) : (s.movePorts moves).busyLeft = s.busyLeft := rfl
@[simp] theorem State.movePorts_freeCount (moves : List Transfer) : (s.movePorts moves).freeCount = s.freeCount := rfl

@[simp] theorem State.failConfig_params (code : ErrCode) : (s.failConfig code).params = s.params := rfl
@[simp] theorem State.failConfig_opMinFactor (code : ErrCode) : (s.failConfig code).opMinFactor = s.opMinFactor := rfl
@[simp] theorem State.failConfig_opMaxFactor (code : ErrCode) : (s.failConfig code).opMaxFactor = s.opMaxFactor := rfl
@[simp] theorem State.failConfig_opFactor (code : ErrCode) : (s.failConfig code).opFactor = s.opFactor := rfl
@[simp] theorem State.failConfig_opInCount (code : ErrCode) : (s.failConfig code).opInCount = s.opInCount := rfl
@[simp] theorem State.failConfig_opOutRoom (code : ErrCode) : (s.failConfig code).opOutRoom = s.opOutRoom := rfl
@[simp] theorem State.failConfig_resInUsed (code : ErrCode) : (s.failConfig code).resInUsed = s.resInUsed := rfl
@[simp] theorem State.failConfig_resOutWritten (code : ErrCode) : (s.failConfig code).resOutWritten = s.resOutWritten :=
  rfl
@[simp] theorem State.failConfig_configured (code : ErrCode) : (s.failConfig code).configured = false := rfl
@[simp] theorem State.failConfig_running (code : ErrCode) : (s.failConfig code).running = none := rfl
@[simp] theorem State.failConfig_noProgress (code : ErrCode) : (s.failConfig code).noProgress = s.noProgress := rfl
@[simp] theorem State.failConfig_flushed (code : ErrCode) : (s.failConfig code).flushed = false := rfl
@[simp] theorem State.failConfig_fault (code : ErrCode) : (s.failConfig code).fault = s.fault := rfl
@[simp] theorem State.failConfig_overrun (code : ErrCode) : (s.failConfig code).overrun = s.overrun := rfl
@[simp] theorem State.failConfig_err (code : ErrCode) : (s.failConfig code).err = code := rfl
@[simp] theorem State.failConfig_cfgQuality (code : ErrCode) : (s.failConfig code).cfgQuality = .fast := rfl
@[simp] theorem State.failConfig_cfgInterp (code : ErrCode) : (s.failConfig code).cfgInterp = false := rfl
@[simp] theorem State.failConfig_cfgMinFactor (code : ErrCode) : (s.failConfig code).cfgMinFactor = 0#64 := rfl
@[simp] theorem State.failConfig_cfgMaxFactor (code : ErrCode) : (s.failConfig code).cfgMaxFactor = 0#64 := rfl
@[simp] theorem State.failConfig_xoff (code : ErrCode) : (s.failConfig code).xoff = 0#32 := rfl
@[simp] theorem State.failConfig_xsize (code : ErrCode) : (s.failConfig code).xsize = 0#32 := rfl
@[simp] theorem State.failConfig_ysize (code : ErrCode) : (s.failConfig code).ysize = 0#32 := rfl
@[simp] theorem State.failConfig_nwing (code : ErrCode) : (s.failConfig code).nwing = 0#32 := rfl
@[simp] theorem State.failConfig_time (code : ErrCode) : (s.failConfig code).time = 0#64 := rfl
@[simp] theorem State.failConfig_xp (code : ErrCode) : (s.failConfig code).xp = 0#32 := rfl
@[simp] theorem State.failConfig_xread (code : ErrCode) : (s.failConfig code).xread = 0#32 := rfl
@[simp] theorem State.failConfig_yp (code : ErrCode) : (s.failConfig code).yp = 0#32 := rfl
@[simp] theorem State.failConfig_x (code : ErrCode) : (s.failConfig code).x = [] := rfl
@[simp] theorem State.failConfig_y (code : ErrCode) : (s.failConfig code).y = [] := rfl
@[simp] theorem State.failConfig_inPort (code : ErrCode) : (s.failConfig code).inPort = s.inPort := rfl
@[simp] theorem State.failConfig_outPort (code : ErrCode) : (s.failConfig code).outPort = s.outPort := rfl
@[simp] theorem State.failConfig_outReady (code : ErrCode) : (s.failConfig code).outReady = s.outReady := rfl
@[simp] theorem State.failConfig_bus (code : ErrCode) : (s.failConfig code).bus = s.bus := rfl
@[simp] theorem State.failConfig_answer (code : ErrCode) : (s.failConfig code).answer = s.answer := rfl
@[simp] theorem State.failConfig_latencies (code : ErrCode) : (s.failConfig code).latencies = s.latencies := rfl
@[simp] theorem State.failConfig_busyLeft (code : ErrCode) : (s.failConfig code).busyLeft = s.busyLeft := rfl
@[simp] theorem State.failConfig_freeCount (code : ErrCode) : (s.failConfig code).freeCount = s.freeCount := rfl

@[simp] theorem State.resetInput_params : s.resetInput.params = s.params := rfl
@[simp] theorem State.resetInput_opMinFactor : s.resetInput.opMinFactor = State.reset.opMinFactor := rfl
@[simp] theorem State.resetInput_opMaxFactor : s.resetInput.opMaxFactor = State.reset.opMaxFactor := rfl
@[simp] theorem State.resetInput_opFactor : s.resetInput.opFactor = State.reset.opFactor := rfl
@[simp] theorem State.resetInput_opInCount : s.resetInput.opInCount = State.reset.opInCount := rfl
@[simp] theorem State.resetInput_opOutRoom : s.resetInput.opOutRoom = State.reset.opOutRoom := rfl
@[simp] theorem State.resetInput_resInUsed : s.resetInput.resInUsed = State.reset.resInUsed := rfl
@[simp] theorem State.resetInput_resOutWritten : s.resetInput.resOutWritten = State.reset.resOutWritten := rfl
@[simp] theorem State.resetInput_configured : s.resetInput.configured = State.reset.configured := rfl
@[simp] theorem State.resetInput_running : s.resetInput.running = State.reset.running := rfl
@[simp] theorem State.resetInput_noProgress : s.resetInput.noProgress = State.reset.noProgress := rfl
@[simp] theorem State.resetInput_flushed : s.resetInput.flushed = State.reset.flushed := rfl
@[simp] theorem State.resetInput_fault : s.resetInput.fault = State.reset.fault := rfl
@[simp] theorem State.resetInput_overrun : s.resetInput.overrun = State.reset.overrun := rfl
@[simp] theorem State.resetInput_err : s.resetInput.err = State.reset.err := rfl
@[simp] theorem State.resetInput_cfgQuality : s.resetInput.cfgQuality = State.reset.cfgQuality := rfl
@[simp] theorem State.resetInput_cfgInterp : s.resetInput.cfgInterp = State.reset.cfgInterp := rfl
@[simp] theorem State.resetInput_cfgMinFactor : s.resetInput.cfgMinFactor = State.reset.cfgMinFactor := rfl
@[simp] theorem State.resetInput_cfgMaxFactor : s.resetInput.cfgMaxFactor = State.reset.cfgMaxFactor := rfl
@[simp] theorem State.resetInput_xoff : s.resetInput.xoff = State.reset.xoff := rfl
@[simp] theorem State.resetInput_xsize : s.resetInput.xsize = State.reset.xsize := rfl
@[simp] theorem State.resetInput_ysize : s.resetInput.ysize = State.reset.ysize := rfl
@[simp] theorem State.resetInput_nwing : s.resetInput.nwing = State.reset.nwing := rfl
@[simp] theorem State.resetInput_time : s.resetInput.time = State.reset.time := rfl
@[simp] theorem State.resetInput_xp : s.resetInput.xp = State.reset.xp := rfl
@[simp] theorem State.resetInput_xread : s.resetInput.xread = State.reset.xread := rfl
@[simp] theorem State.resetInput_yp : s.resetInput.yp = State.reset.yp := rfl
@[simp] theorem State.resetInput_x : s.resetInput.x = State.reset.x := rfl
@[simp] theorem State.resetInput_y : s.resetInput.y = State.reset.y := rfl
@[simp] theorem State.resetInput_inPort : s.resetInput.inPort = s.inPort.drop (inputsOf s.transfersMade) := rfl
@[simp] theorem State.resetInput_outPort : s.resetInput.outPort = s.outPort ++ outputsOf s.transfersMade := rfl
@[simp] theorem State.resetInput_outReady :
    s.resetInput.outReady = s.outReady.map fun r => r - (outputsOf s.transfersMade).length := rfl
@[simp] theorem State.resetInput_bus : s.resetInput.bus = s.bus := rfl
@[simp] theorem State.resetInput_answer : s.resetInput.answer = s.answer := rfl
@[simp] theorem State.resetInput_latencies : s.resetInput.latencies = s.latencies := rfl
@[simp] theorem State.resetInput_busyLeft : s.resetInput.busyLeft = State.reset.busyLeft := rfl
@[simp] theorem State.resetInput_freeCount : s.resetInput.freeCount = s.freeCount + 1 := rfl

end Sys2Proof.Machine
end

