-- ==== Sys2Proof/Laws/Command.lean ====
section
/-! SUPPORT. What CONFIG, PROCESS and a step can do, case by case, said once (spec/42_engine.md R181, R188;
spec/20_memory.md R90). -/

namespace Sys2Proof.Machine

/-- Everything CONFIG can do: a refusal by the sticky fault, a failed construction, or a fresh stream. -/
theorem execConfig_cases {quality : Nat} {interp : Bool} {s t : State}
    (h : exec (.config quality interp) s = .next t) :
    (s.fault.isSome = true ∧ t = s.raiseErr .fault) ∨
    (s.fault = none ∧ ∃ code, configOutcome quality s = .error code ∧ t = s.failConfig code) ∨
    (s.fault = none ∧ ∃ q z, configOutcome quality s = .ok (q, z) ∧ t = s.startStream q interp z) := by
  simp only [exec, execConfig] at h
  split at h
  · next hf => exact .inl ⟨hf, by simpa using h.symm⟩
  · next hf =>
    have hf : s.fault = none := by simpa using hf
    cases e : configOutcome quality s with
    | error code => rw [e] at h; exact .inr (.inl ⟨hf, code, rfl, by simpa using h.symm⟩)
    | ok r => rw [e] at h; exact .inr (.inr ⟨hf, r.1, r.2, rfl, by simpa using h.symm⟩)

/-- Why CONFIG refuses or accepts: the checks of 60_exceptions.md R236 (3), in order. -/
theorem configOutcome_cases (quality : Nat) (s : State) :
    (boundsOk s.opMinFactor s.opMaxFactor = false ∧ configOutcome quality s = .error .bounds) ∨
    (boundsOk s.opMinFactor s.opMaxFactor = true ∧ tierOf quality = none ∧
      configOutcome quality s = .error .quality) ∨
    (∃ q, boundsOk s.opMinFactor s.opMaxFactor = true ∧ tierOf quality = some q ∧
      sizesFor s.params q s.opMinFactor s.opMaxFactor = none ∧ configOutcome quality s = .error .capacity) ∨
    (∃ q z, boundsOk s.opMinFactor s.opMaxFactor = true ∧ tierOf quality = some q ∧
      sizesFor s.params q s.opMinFactor s.opMaxFactor = some z ∧ configOutcome quality s = .ok (q, z)) := by
  unfold configOutcome
  cases hb : boundsOk s.opMinFactor s.opMaxFactor with
  | false => simp
  | true =>
    cases hq : tierOf quality with
    | none => simp
    | some q => cases hz : sizesFor s.params q s.opMinFactor s.opMaxFactor <;> simp [hz]

/-- Everything PROCESS can do: a refusal, or one of the three ends of its run. -/
theorem execProcess_cases {last : Bool} {s t : State} (h : exec (.process last) s = .next t) :
    (∃ code, processRefusal s = some code ∧ t = s.raiseErr code) ∨
    (processRefusal s = none ∧ ∃ w, processRun (s.call last) s.work = .done w ∧ t = s.finishProcess w) ∨
    (processRefusal s = none ∧ ∃ cause w, processRun (s.call last) s.work = .fault cause w ∧
      t = s.raiseFault cause w) ∨
    (processRefusal s = none ∧ ∃ w, processRun (s.call last) s.work = .stall w ∧
      t = s.waitPort (.process last)) := by
  simp only [exec, execProcess] at h
  cases hr : processRefusal s with
  | some code => rw [hr] at h; exact .inl ⟨code, rfl, by simpa using h.symm⟩
  | none =>
    rw [hr] at h
    cases e : processRun (s.call last) s.work with
    | done w => rw [e] at h; exact .inr (.inl ⟨rfl, w, rfl, by simpa using h.symm⟩)
    | fault cause w => rw [e] at h; exact .inr (.inr (.inl ⟨rfl, cause, w, rfl, by simpa using h.symm⟩))
    | stall w => rw [e] at h; exact .inr (.inr (.inr ⟨rfl, w, rfl, by simpa using h.symm⟩))

/-- A 64-bit access at a multiple of 8 inside the window names the register that stands there. -/
theorem accessed_window (p : Params) {k : Nat} (h : k < 32) :
    accessed p 8 (p.regBase + 8 * k) = some (regAt (8 * k)) := by
  unfold accessed
  rw [Nat.add_sub_cancel_left, if_pos ⟨rfl, by omega, by omega, by omega⟩]

/-- Every other access is refused. -/
theorem accessed_eq_none {p : Params} {width address : Nat} :
    accessed p width address = none ↔
      width ≠ 8 ∨ address < p.regBase ∨ (address - p.regBase) % 8 ≠ 0 ∨ p.regBase + 0xF8 < address := by
  unfold accessed
  split <;> simp <;> omega

/-- Everything a step does: an idle block serves the platform; a busy one counts down or completes its command. -/
theorem step_cases (s : State) :
    (s.running = none ∧ step s = serveIdle s) ∨
    (∃ i, s.running = some i ∧ s.busyLeft = 0 ∧ step s = completeCommand i s) ∨
    (∃ i, s.running = some i ∧ s.busyLeft ≠ 0 ∧
      step s = .next (serveWhileBusy { s with busyLeft := s.busyLeft - 1 })) := by
  unfold step advance
  cases h : s.running with
  | none => exact .inl ⟨rfl, rfl⟩
  | some i =>
    by_cases hb : s.busyLeft = 0
    · exact .inr (.inl ⟨i, rfl, hb, by simp [hb]⟩)
    · exact .inr (.inr ⟨i, rfl, hb, by simp [hb]⟩)

/-- What completing a command does: its effect, and one event of the platform if it still waits. -/
theorem completeCommand_next {i : Instr} {s t : State} (h : completeCommand i s = .next t) :
    ∃ u, exec i s = .next u ∧ t = if u.busy then serveWhileBusy u else u := by
  unfold completeCommand at h
  cases e : exec i s with
  | next u => rw [e] at h; exact ⟨u, rfl, by simpa using h.symm⟩
  | fault r => nomatch r
  | refused r => rw [e] at h; simp at h

end Sys2Proof.Machine
end

