-- ==== Sys2Proof/Laws/Float.lean ====
section
/-! SUPPORT. How large a result of binary32 arithmetic can be: enough to see that the weights of taps are finite when
the ROM's entries are of moderate size (spec/00_scope.md R12, spec/41_filter_kernel.md R158). -/

namespace Sys2Proof.Machine

/-- A quotient rounded to nearest does not pass an integer that the exact quotient does not pass. -/
theorem rneDiv_le {n d c : Nat} (hd : 0 < d) (h : n ≤ d * c) : rneDiv n d ≤ c := by
  have hq : n / d ≤ c := by
    have := Nat.div_le_div_right (c := d) h
    rwa [Nat.mul_div_cancel_left c hd] at this
  unfold rneDiv
  rcases Nat.lt_or_eq_of_le hq with hlt | heq
  · split
    · exact hq
    · split <;> omega
  · have hz : n % d = 0 := by
      have := Nat.div_add_mod n d
      rw [heq] at this
      omega
    rw [hz, if_pos (by omega)]
    exact hq

/-- A magnitude of at most 2^(p+23) units rounds to a binary32 pattern of at most that magnitude's. -/
theorem roundMag_le {num den p : Nat} (hd : 0 < den) (h : num ≤ den * 2 ^ (p + 23)) :
    binary32.roundMag num den ≤ 2 ^ 23 * (p + 1) := by
  have hq : num / den ≤ 2 ^ (p + 23) := by
    have := Nat.div_le_div_right (c := den) h
    rwa [Nat.mul_div_cancel_left _ hd] at this
  have hlog : Nat.log2 (num / den) ≤ p + 23 := by
    rcases Nat.eq_zero_or_pos (num / den) with h0 | h0
    · simp [h0]
    · have := Nat.log2_self_le (Nat.ne_of_gt h0)
      exact (Nat.pow_le_pow_iff_right (by decide)).mp (this.trans hq)
  simp only [Format.roundMag, binary32]
  refine (Nat.min_le_left _ _).trans ?_
  generalize hk : Nat.log2 (num / den) - 23 = k
  have hpos : 0 < 2 ^ k * den := Nat.mul_pos (Nat.two_pow_pos k) hd
  rcases Nat.lt_or_ge k p with hkp | hkp
  · have hlt : num / den < 2 ^ (k + 24) := by
      refine Nat.lt_of_lt_of_le Nat.lt_log2_self (Nat.pow_le_pow_right (by decide) (by omega))
    have : num ≤ 2 ^ k * den * 2 ^ 24 := by
      have := (Nat.div_lt_iff_lt_mul hd).mp hlt
      rw [Nat.pow_add] at this
      calc num ≤ 2 ^ k * 2 ^ 24 * den := Nat.le_of_lt this
        _ = _ := by ring
    have := rneDiv_le hpos this
    omega
  · have hkp : k = p := by omega
    subst hkp
    have : num ≤ 2 ^ k * den * 2 ^ 23 := by
      rw [Nat.pow_add] at h
      calc num ≤ _ := h
        _ = _ := by ring
    have := rneDiv_le hpos this
    omega

/-- A binary32 pattern of at most that of 2^(p+23) units, below the infinities, is finite and of at most so many. -/
theorem datum_of_le {b p : Nat} (hp : p + 1 < 255) (h : b % 2 ^ 31 ≤ 2 ^ 23 * (p + 1)) :
    ∃ neg m, binary32.datum b = .fin neg m ∧ m ≤ 2 ^ (p + 23) := by
  have he : b / 2 ^ 23 % 2 ^ 8 ≤ p + 1 := by omega
  have hf : b / 2 ^ 23 % 2 ^ 8 = p + 1 → b % 2 ^ 23 = 0 := by omega
  have hlt : b % 2 ^ 23 < 2 ^ 23 := Nat.mod_lt _ (by decide)
  have key : ∀ e f : Nat, e ≤ p + 1 → (e = p + 1 → f = 0) → f < 2 ^ 23 → e ≠ 0 →
      2 ^ (e - 1) * (2 ^ 23 + f) ≤ 2 ^ (p + 23) := by
    intro e f he hf hlt h0
    rcases Nat.lt_or_eq_of_le he with hlt' | heq
    · calc 2 ^ (e - 1) * (2 ^ 23 + f) ≤ 2 ^ (e - 1) * 2 ^ 24 := Nat.mul_le_mul_left _ (by omega)
        _ = 2 ^ (e - 1 + 24) := (Nat.pow_add ..).symm
        _ ≤ _ := Nat.pow_le_pow_right (by decide) (by omega)
    · rw [hf heq, heq, Nat.pow_add, Nat.add_sub_cancel, Nat.add_zero]
  have hfin : ¬ b / 2 ^ binary32.fracBits % 2 ^ binary32.expBits = 2 ^ binary32.expBits - 1 := by
    simp only [binary32]
    omega
  unfold Format.datum
  dsimp only
  rw [if_neg hfin]
  split
  · exact ⟨_, _, rfl, (Nat.le_of_lt hlt).trans (Nat.pow_le_pow_right (by decide) (by omega))⟩
  · next h0 => exact ⟨_, _, rfl, key _ _ he hf hlt h0⟩

/-- Packing a sign above a pattern below 2^31 leaves the pattern where it was. -/
theorem pack_mod {b : Nat} (neg : Bool) (h : b < 2 ^ 31) :
    (BitVec.ofNat 32 (binary32.pack neg b)).toNat % 2 ^ 31 = b := by
  simp only [Format.pack, binary32, BitVec.toNat_ofNat]
  split <;> omega

theorem signed_natAbs (neg : Bool) (m : Nat) : (signed neg m).natAbs = m := by
  cases neg <;> simp [signed]

/-- A fraction of 32 bits, in units, is at most one. -/
theorem fraction_le {r : Nat} (hr : r < 2 ^ 32) : 2 ^ binary32.unitExp * r ≤ 2 ^ 32 * 2 ^ (126 + 23) := by
  rw [show binary32.unitExp = 126 + 23 from rfl, Nat.mul_comm]
  exact Nat.mul_le_mul_right _ (Nat.le_of_lt hr)

/-- A magnitude times a magnitude of at most one. -/
theorem product_le {m n p : Nat} (hm : m ≤ 2 ^ (p + 23)) (hn : n ≤ 2 ^ (126 + 23)) :
    m * n ≤ 2 ^ binary32.unitExp * 2 ^ (p + 23) := by
  rw [show binary32.unitExp = 126 + 23 from rfl, Nat.mul_comm (2 ^ (126 + 23))]
  exact Nat.mul_le_mul hm hn

/-- A fraction of 32 bits converts to at most 1.0. -/
theorem f32OfRatio_le {r : Nat} (hr : r < 2 ^ 32) : (f32OfRatio r (2 ^ 32)).toNat % 2 ^ 31 ≤ 2 ^ 23 * (126 + 1) := by
  have hb := roundMag_le (Nat.two_pow_pos 32) (fraction_le hr)
  unfold f32OfRatio
  rw [BitVec.toNat_ofNat]
  generalize binary32.roundMag (2 ^ binary32.unitExp * r) (2 ^ 32) = n at hb ⊢
  omega

/-- A product with a factor of at most 1.0 is at most what the other factor is. -/
theorem f32Mul_le {a b : Sample} {p : Nat} (hp : p + 1 < 255) (ha : a.toNat % 2 ^ 31 ≤ 2 ^ 23 * (p + 1))
    (hb : b.toNat % 2 ^ 31 ≤ 2 ^ 23 * (126 + 1)) : (f32Mul a b).toNat % 2 ^ 31 ≤ 2 ^ 23 * (p + 1) := by
  obtain ⟨s, m, hm, hml⟩ := datum_of_le hp ha
  obtain ⟨t, n, hn, hnl⟩ := datum_of_le (by decide) hb
  have hr := roundMag_le (Nat.two_pow_pos binary32.unitExp) (product_le hml hnl)
  unfold f32Mul Format.mul
  rw [hm, hn]
  simp only [Format.round]
  generalize binary32.roundMag (m * n) (2 ^ binary32.unitExp) = k at hr ⊢
  rw [pack_mod _ (by omega)]
  exact hr

/-- A sum is at most twice what its operands are. -/
theorem f32Add_le {a b : Sample} {p : Nat} (hp : p + 2 < 255) (ha : a.toNat % 2 ^ 31 ≤ 2 ^ 23 * (p + 1))
    (hb : b.toNat % 2 ^ 31 ≤ 2 ^ 23 * (p + 1)) : (f32Add a b).toNat % 2 ^ 31 ≤ 2 ^ 23 * (p + 2) := by
  obtain ⟨s, m, hm, hml⟩ := datum_of_le (by omega) ha
  obtain ⟨t, n, hn, hnl⟩ := datum_of_le (by omega) hb
  unfold f32Add Format.add
  rw [hm, hn]
  dsimp only
  split
  · rw [pack_mod _ (by decide)]
    exact Nat.zero_le _
  · have hz : (signed s m + signed t n).natAbs ≤ 1 * 2 ^ (p + 1 + 23) := by
      rw [show p + 1 + 23 = p + 23 + 1 by omega, Nat.pow_succ, Nat.mul_two, Nat.one_mul]
      refine (Int.natAbs_add_le _ _).trans ?_
      rw [signed_natAbs, signed_natAbs]
      exact Nat.add_le_add hml hnl
    have hr := roundMag_le Nat.one_pos hz
    simp only [Format.round]
    generalize binary32.roundMag (signed s m + signed t n).natAbs 1 = k at hr ⊢
    rw [pack_mod _ (by omega)]
    exact hr

/-- Flipping the sign leaves the magnitude. -/
theorem f32Neg_mod (a : Sample) : (f32Neg a).toNat % 2 ^ 31 = a.toNat % 2 ^ 31 := by
  have h : a.toNat < 2 ^ 32 := a.isLt
  unfold f32Neg Format.neg
  rw [BitVec.toNat_ofNat, Nat.mod_mod_of_dvd _ (by decide), show binary32.expBits + binary32.fracBits = 31 from rfl,
    Nat.xor_mod_two_pow]
  simp

/-- Subtraction is addition of the operand with its sign flipped. -/
theorem f32Sub_eq (a b : Sample) : f32Sub a b = f32Add a (f32Neg b) := by
  have h : binary32.neg b.toNat < 2 ^ 32 := by
    unfold Format.neg
    rw [show binary32.expBits + binary32.fracBits = 31 from rfl]
    exact Nat.xor_lt_two_pow b.isLt (by decide)
  unfold f32Sub f32Add f32Neg Format.sub
  rw [BitVec.toNat_ofNat, Nat.mod_eq_of_lt h]

/-- A difference of IMPD is at most twice what the entries of IMP are. -/
theorem impd_le {params : Params} {q : Quality} {p : Nat} (hp : p + 2 < 255)
    (himp : ∀ h t, params.imp q h = some t → t.toNat % 2 ^ 31 ≤ 2 ^ 23 * (p + 1)) {h : Nat} {d : Sample}
    (hd : params.impd q h = some d) : d.toNat % 2 ^ 31 ≤ 2 ^ 23 * (p + 2) := by
  unfold Params.impd at hd
  split at hd
  · obtain ⟨t, ht, rfl⟩ := Option.map_eq_some_iff.mp hd
    rw [f32Neg_mod]
    have := himp h t ht
    omega
  · split at hd
    · next next here hn hh =>
      obtain rfl : f32Sub next here = d := by simpa using hd
      rw [f32Sub_eq]
      exact f32Add_le hp (himp _ _ hn) (by rw [f32Neg_mod]; exact himp _ _ hh)
    · simp at hd

/-- The weight of a tap is finite when the entries of IMP and IMPD are at most 2^(p+23) units and that is well below
the largest finite value. -/
theorem tapWeight_finite {c : Call} {p : Nat} (hp : p + 2 < 255)
    (himp : ∀ h t, c.params.imp c.quality h = some t → t.toNat % 2 ^ 31 ≤ 2 ^ 23 * (p + 1))
    (himpd : ∀ h d, c.params.impd c.quality h = some d → d.toNat % 2 ^ 31 ≤ 2 ^ 23 * (p + 1))
    {h r : Nat} {t : Sample} (hr : r < 2 ^ 32) (ht : tapWeight c h (f32OfRatio r (2 ^ 32)) = some t) :
    t.toNat % 2 ^ 31 < 0x7F800000 := by
  unfold tapWeight at ht
  split at ht
  · simp at ht
  · next here e =>
    have hhere := himp h here e
    split at ht
    · obtain ⟨d, e', rfl⟩ := Option.map_eq_some_iff.mp ht
      have := f32Add_le hp hhere (f32Mul_le (by omega) (himpd h d e') (f32OfRatio_le hr))
      generalize (f32Add here (f32Mul d (f32OfRatio r (2 ^ 32)))).toNat = k at this ⊢
      omega
    · have e2 : here = t := by simpa using ht
      subst e2
      omega

end Sys2Proof.Machine
end

