-- ==== Sys2Proof/Laws/Memory.lean ====
section
/-! SUPPORT. The laws of the memories X and Y: read after write, and that every operation keeps the canonical
form (spec/20_memory.md R83 to R85). -/

namespace Sys2Proof.Machine

@[simp] theorem Memory.read_nil (i : Nat) : Memory.read [] i = none := rfl

theorem Memory.read_write_same (m : Memory) (i : Nat) (v : Sample) : (m.write i v).read i = some v := by
  induction m with
  | nil => simp [Memory.write, Memory.read]
  | cons c rest ih =>
    obtain ⟨j, w⟩ := c
    simp only [Memory.write]
    split
    · simp [Memory.read]
    · split
      · simp [Memory.read]
      · next h => simp [Memory.read, Ne.symm h, ih]

theorem Memory.read_write_other (m : Memory) (i k : Nat) (v : Sample) (h : k ≠ i) :
    (m.write i v).read k = m.read k := by
  induction m with
  | nil => simp [Memory.write, Memory.read, Ne.symm h]
  | cons c rest ih =>
    obtain ⟨j, w⟩ := c
    simp only [Memory.write]
    split
    · simp [Memory.read, Ne.symm h]
    · split
      · next e => subst e; simp [Memory.read, Ne.symm h]
      · simp [Memory.read, ih]

/-- Both laws of a write in one. -/
theorem Memory.read_write (m : Memory) (i k : Nat) (v : Sample) :
    (m.write i v).read k = if k = i then some v else m.read k := by
  split
  · next h => rw [h]; exact Memory.read_write_same m i v
  · next h => exact Memory.read_write_other m i k v h

theorem Memory.wf_nil : Memory.wf [] := List.Pairwise.nil

/-- A write puts no index below a bound that all entries and the written index respect. -/
theorem Memory.mem_write (m : Memory) (i : Nat) (v : Sample) (c : Nat × Sample) (h : c ∈ m.write i v) :
    c = (i, v) ∨ c ∈ m := by
  induction m with
  | nil => simpa [Memory.write] using h
  | cons d rest ih =>
    obtain ⟨j, w⟩ := d
    simp only [Memory.write] at h
    split at h
    · simpa using h
    · split at h
      · rcases List.mem_cons.mp h with h | h
        · exact .inl h
        · exact .inr (List.mem_cons_of_mem _ h)
      · rcases List.mem_cons.mp h with h | h
        · exact .inr (by simp [h])
        · rcases ih h with h | h
          · exact .inl h
          · exact .inr (List.mem_cons_of_mem _ h)

theorem Memory.wf_write (m : Memory) (i : Nat) (v : Sample) (h : m.wf) : (m.write i v).wf := by
  induction m with
  | nil => simp [Memory.write]
  | cons d rest ih =>
    obtain ⟨j, w⟩ := d
    obtain ⟨hd, hr⟩ := List.pairwise_cons.mp h
    simp only [Memory.write]
    split
    · next hij =>
      refine List.pairwise_cons.mpr ⟨?_, h⟩
      intro c hc
      rcases List.mem_cons.mp hc with rfl | hc
      · exact hij
      · exact Nat.lt_trans hij (hd c hc)
    · split
      · next hij => subst hij; exact List.pairwise_cons.mpr ⟨hd, hr⟩
      · refine List.pairwise_cons.mpr ⟨?_, ih hr⟩
        intro c hc
        rcases Memory.mem_write rest i v c hc with rfl | hc
        · dsimp only; omega
        · exact hd c hc

theorem Memory.wf_zeros (n : Nat) : (Memory.zeros n).wf :=
  List.pairwise_map.mpr List.pairwise_lt_range

theorem Memory.wf_unspecified (n cap : Nat) : (Memory.unspecified n cap).wf := by
  refine List.Pairwise.filterMap _ ?_ (List.pairwise_lt_range (n := cap))
  intro a b hab c hc d hd
  simp only [Option.map_eq_some_iff] at hc hd
  obtain ⟨_, _, rfl⟩ := hc
  obtain ⟨_, _, rfl⟩ := hd
  exact hab

/-- Word i of a memory of n zeros. -/
theorem Memory.read_zeros (n i : Nat) : (Memory.zeros n).read i = if i < n then some Sample.zero else none := by
  have key : ∀ l : List Nat, Memory.read (l.map fun k => (k, Sample.zero)) i =
      if i ∈ l then some Sample.zero else none := by
    intro l
    induction l with
    | nil => simp
    | cons a l ih =>
      by_cases h : a = i
      · simp [Memory.read, h]
      · simp [Memory.read, h, ih, Ne.symm h]
  simpa [Memory.zeros] using key (List.range n)

end Sys2Proof.Machine
end

