-- ==== Sys2Proof/Laws/Ops.lean ====
section
/-! SUPPORT. What each shared operation of a command can do, said once: proofs cite these lemmas and do not unfold
the operations (spec/20_memory.md R83 to R88, spec/00_scope.md R16). -/

namespace Sys2Proof.Machine

@[simp] theorem inputsOf_nil : inputsOf [] = 0 := rfl
@[simp] theorem outputsOf_nil : outputsOf [] = [] := rfl
@[simp] theorem inputsOf_input : inputsOf [.input] = 1 := rfl
@[simp] theorem outputsOf_input : outputsOf [.input] = [] := rfl
@[simp] theorem inputsOf_output (v : Sample) : inputsOf [.output v] = 0 := rfl
@[simp] theorem outputsOf_output (v : Sample) : outputsOf [.output v] = [v] := rfl
@[simp] theorem inputsOf_append (a b : List Transfer) : inputsOf (a ++ b) = inputsOf a + inputsOf b :=
  List.countP_append
@[simp] theorem outputsOf_append (a b : List Transfer) : outputsOf (a ++ b) = outputsOf a ++ outputsOf b :=
  List.filterMap_append

/-- The locals of a PROCESS as its transfers give them. -/
theorem Work.used_eq (w : Work) : w.used = inputsOf w.moves := rfl
theorem Work.out_eq (w : Work) : w.out = outputsOf w.moves := rfl
theorem Work.written_eq (w : Work) : w.written = (outputsOf w.moves).length := rfl

/-- The output port accepts OutWrite number k when its limit, if it has one, lies above k. -/
theorem Call.accepts_eq_true {c : Call} {k : Nat} : c.accepts k = true ↔ ∀ r ∈ c.ready, k < r := by
  unfold Call.accepts
  cases c.ready <;> simp

@[simp] theorem Run.done_andThen (w : Work) (f : Work → Run) : (Run.done w).andThen f = f w := rfl
@[simp] theorem Run.fault_andThen (c : FaultCause) (w : Work) (f : Work → Run) :
    (Run.fault c w).andThen f = .fault c w := rfl
@[simp] theorem Run.stall_andThen (w : Work) (f : Work → Run) : (Run.stall w).andThen f = .stall w := rfl

@[simp] theorem Run.reached_done (w : Work) : (Run.done w).reached = w := rfl
@[simp] theorem Run.reached_fault (c : FaultCause) (w : Work) : (Run.fault c w).reached = w := rfl
@[simp] theorem Run.reached_stall (w : Work) : (Run.stall w).reached = w := rfl

/-- A sequence is done exactly when its first part is done and its second part, from there, is. -/
theorem Run.andThen_eq_done {r : Run} {f : Work → Run} {w' : Work} :
    r.andThen f = .done w' ↔ ∃ w, r = .done w ∧ f w = .done w' := by
  cases r <;> simp

/-- A sequence faults in its first part or, that one done, in its second. -/
theorem Run.andThen_eq_fault {r : Run} {f : Work → Run} {c : FaultCause} {w' : Work} :
    r.andThen f = .fault c w' ↔ r = .fault c w' ∨ ∃ w, r = .done w ∧ f w = .fault c w' := by
  cases r <;> simp

/-- A sequence waits in its first part or, that one done, in its second. -/
theorem Run.andThen_eq_stall {r : Run} {f : Work → Run} {w' : Work} :
    r.andThen f = .stall w' ↔ r = .stall w' ∨ ∃ w, r = .done w ∧ f w = .stall w' := by
  cases r <;> simp

theorem Run.andThen_assoc (r : Run) (f g : Work → Run) :
    (r.andThen f).andThen g = r.andThen fun w => (f w).andThen g := by
  cases r <;> rfl

/-- What holds of the work a first part reached, and that the second part keeps, holds of what a sequence reached. -/
theorem Run.reached_andThen {P : Work → Prop} {r : Run} {f : Work → Run} (h : P r.reached)
    (hf : ∀ w, r = .done w → P w → P (f w).reached) : P (r.andThen f).reached := by
  cases r with
  | done w => exact hf w rfl h
  | fault c w => exact h
  | stall w => exact h

@[simp] theorem forRange_zero (body : Nat → Work → Run) (first : Nat) (w : Work) :
    forRange body first 0 w = .done w := rfl

theorem forRange_succ (body : Nat → Work → Run) (first count : Nat) (w : Work) :
    forRange body first (count + 1) w = (body first w).andThen (forRange body (first + 1) count) := rfl

/-- A loop that is done: what holds before it, indexed by the loop variable, and is carried by every round, holds
after it. -/
theorem forRange_done {P : Nat → Work → Prop} {body : Nat → Work → Run} {first count : Nat} {w w' : Work}
    (h : forRange body first count w = .done w') (start : P first w)
    (round : ∀ k w w', first ≤ k → k < first + count → P k w → body k w = .done w' → P (k + 1) w') :
    P (first + count) w' := by
  induction count generalizing first w with
  | zero => simp at h; subst h; exact start
  | succ count ih =>
    rw [forRange_succ, Run.andThen_eq_done] at h
    obtain ⟨w1, h1, h2⟩ := h
    have p1 := round first w w1 (Nat.le_refl _) (by omega) start h1
    have := ih h2 p1 fun k w w' hk hk' => round k w w' (by omega) (by omega)
    rwa [show first + (count + 1) = first + 1 + count by omega]

/-- A loop, however it ends: what holds before it and is carried by every round, in what the round reached, holds of
what the loop reached. -/
theorem forRange_reached {P : Work → Prop} {body : Nat → Work → Run} {first count : Nat} {w : Work}
    (start : P w) (round : ∀ k w, P w → P (body k w).reached) : P (forRange body first count w).reached := by
  induction count generalizing first w with
  | zero => simpa using start
  | succ count ih =>
    rw [forRange_succ]
    exact Run.reached_andThen (round first w start) fun w1 h1 _ =>
      ih (by have := round first w start; rwa [h1] at this)

/-- A loop whose every round is done, from a property the rounds carry, is done. -/
theorem forRange_completes {P : Nat → Work → Prop} {body : Nat → Work → Run} {first count : Nat} {w : Work}
    (start : P first w)
    (round : ∀ k w, first ≤ k → k < first + count → P k w → ∃ w', body k w = .done w' ∧ P (k + 1) w') :
    ∃ w', forRange body first count w = .done w' ∧ P (first + count) w' := by
  induction count generalizing first w with
  | zero => exact ⟨w, rfl, start⟩
  | succ count ih =>
    obtain ⟨w1, h1, p1⟩ := round first w (Nat.le_refl _) (by omega) start
    obtain ⟨w2, h2, p2⟩ := ih p1 fun k w hk hk' => round k w (by omega) (by omega)
    refine ⟨w2, ?_, ?_⟩
    · rw [forRange_succ, h1, Run.done_andThen, h2]
    · rwa [show first + (count + 1) = first + 1 + count by omega]

/-- XRead answers inside the words in use, and what is written there. -/
theorem xRead_eq_some {c : Call} {x : Memory} {i : Int} {v : Sample} :
    xRead c x i = some v ↔ 0 ≤ i ∧ i < c.limit ∧ x.read i.toNat = some v := by
  unfold xRead
  split
  · next h => simp [h.1, h.2]
  · next h =>
    simp only [reduceCtorEq, false_iff, not_and]
    exact fun h0 h1 => absurd ⟨h0, h1⟩ h

/-- XRead at a natural index. -/
theorem xRead_natCast {c : Call} {x : Memory} {i : Nat} :
    xRead c x (i : Int) = if i < c.limit then x.read i else none := by
  simp [xRead]

/-- YRead answers inside the words in use, and what is written there. -/
theorem yRead_eq_some {c : Call} {y : Memory} {i : Nat} {v : Sample} :
    yRead c y i = some v ↔ i < c.ysize ∧ y.read i = some v := by
  unfold yRead
  split <;> simp [*]

/-- XWrite is done inside the words in use, and stores. -/
theorem xWrite_eq_done {c : Call} {i : Nat} {v : Sample} {w w' : Work} :
    xWrite c i v w = .done w' ↔ i < c.limit ∧ w' = { w with x := w.x.write i v } := by
  unfold xWrite
  split
  · next h => simp [h, eq_comm]
  · next h => simp [h]

/-- YWrite is done inside the words in use, and stores. -/
theorem yWrite_eq_done {c : Call} {i : Nat} {v : Sample} {w w' : Work} :
    yWrite c i v w = .done w' ↔ i < c.ysize ∧ w' = { w with y := w.y.write i v } := by
  unfold yWrite
  split
  · next h => simp [h, eq_comm]
  · next h => simp [h]

/-- A copy inside X is done when its source is written and both ends are in use. -/
theorem xCopy_eq_done {c : Call} {dst src : Nat} {w w' : Work} :
    xCopy c dst src w = .done w' ↔
      ∃ v, src < c.limit ∧ w.x.read src = some v ∧ dst < c.limit ∧ w' = { w with x := w.x.write dst v } := by
  unfold xCopy
  rw [xRead_natCast]
  by_cases h : src < c.limit
  · cases e : w.x.read src <;> simp [h, xWrite_eq_done]
  · simp [h]

/-- A copy inside Y is done when its source is written and both ends are in use. -/
theorem yCopy_eq_done {c : Call} {dst src : Nat} {w w' : Work} :
    yCopy c dst src w = .done w' ↔
      ∃ v, src < c.ysize ∧ w.y.read src = some v ∧ dst < c.ysize ∧ w' = { w with y := w.y.write dst v } := by
  unfold yCopy yRead
  by_cases h : src < c.ysize
  · cases e : w.y.read src <;> simp [h, yWrite_eq_done]
  · simp [h]

/-- A delivery is done when its source is written and in use and the port accepts it, and is recorded. -/
theorem outWrite_eq_done {c : Call} {src : Nat} {w w' : Work} :
    outWrite c src w = .done w' ↔
      ∃ v, yRead c w.y src = some v ∧ c.accepts w.written = true ∧
        w' = { w with moves := w.moves ++ [.output v] } := by
  unfold outWrite
  cases yRead c w.y src with
  | none => simp
  | some v => cases c.accepts w.written <;> simp [eq_comm]

/-- A delivery waits when its source can be read and the port does not accept it; nothing has changed. -/
theorem outWrite_eq_stall {c : Call} {src : Nat} {w w' : Work} :
    outWrite c src w = .stall w' ↔
      (∃ v, yRead c w.y src = some v) ∧ c.accepts w.written = false ∧ w' = w := by
  unfold outWrite
  cases yRead c w.y src with
  | none => simp
  | some v => cases c.accepts w.written <;> simp [eq_comm]

/-- The operations on X and Y, however they end, keep both memories canonical. -/
theorem xWrite_reached_wf {c : Call} {i : Nat} {v : Sample} {w : Work} (h : w.x.wf ∧ w.y.wf) :
    (xWrite c i v w).reached.x.wf ∧ (xWrite c i v w).reached.y.wf := by
  unfold xWrite
  split
  · exact ⟨Memory.wf_write _ _ _ h.1, h.2⟩
  · exact h

theorem yWrite_reached_wf {c : Call} {i : Nat} {v : Sample} {w : Work} (h : w.x.wf ∧ w.y.wf) :
    (yWrite c i v w).reached.x.wf ∧ (yWrite c i v w).reached.y.wf := by
  unfold yWrite
  split
  · exact ⟨h.1, Memory.wf_write _ _ _ h.2⟩
  · exact h

theorem xCopy_reached_wf {c : Call} {dst src : Nat} {w : Work} (h : w.x.wf ∧ w.y.wf) :
    (xCopy c dst src w).reached.x.wf ∧ (xCopy c dst src w).reached.y.wf := by
  unfold xCopy
  split
  · exact xWrite_reached_wf h
  · exact h

theorem yCopy_reached_wf {c : Call} {dst src : Nat} {w : Work} (h : w.x.wf ∧ w.y.wf) :
    (yCopy c dst src w).reached.x.wf ∧ (yCopy c dst src w).reached.y.wf := by
  unfold yCopy
  split
  · exact yWrite_reached_wf h
  · exact h

theorem outWrite_reached_wf {c : Call} {src : Nat} {w : Work} (h : w.x.wf ∧ w.y.wf) :
    (outWrite c src w).reached.x.wf ∧ (outWrite c src w).reached.y.wf := by
  unfold outWrite
  split
  · split <;> exact h
  · exact h

end Sys2Proof.Machine
end

