-- ==== Sys2Proof/Laws/PerInstr.lean ====
section
/-! SUPPORT. Statements made per command: the word of a well-formed command matches its row of
spec/opcode_table.json (spec/30_encoding.md R108). -/

namespace Sys2Proof.Laws.TableMatch

/-- The mask of a command's row. -/
def mask : Instr → Word
  | .config _ _ => 0xFFFFFFFFFFFFFF1F#64
  | .process _ => 0xFFFFFFFFFFFFFFEF#64

/-- The match value of a command's row. -/
def pattern : Instr → Word
  | .config _ _ => 0x1#64
  | .process _ => 0x2#64

/-- The word of a well-formed command matches its row. -/
def Statement (i : Instr) : Prop := i.WellFormed → encode i &&& mask i = pattern i

theorem config (quality : Nat) (interp : Bool) : Statement (.config quality interp) := by
  intro h
  have h : quality < 4 := of_decide_eq_true h
  interval_cases quality <;> cases interp <;> decide

theorem process (last : Bool) : Statement (.process last) := by
  intro _
  cases last <;> decide

end Sys2Proof.Laws.TableMatch
end

