-- ==== Sys2Proof/Machine/Assembler.lean ====
section
/-! DEFINITION. The host's notation: register accesses, commands and pseudo-instructions as the events they stand
for (spec/30_encoding.md R113 to R116). -/

namespace Sys2Proof.Machine

/-- `WR <reg>, <value>` (30_encoding.md R113). -/
def hostWrite (p : Params) (r : Reg) (v : Word) : HostEvent := .write 8 (r.address p) v

/-- `RD <reg>` (30_encoding.md R113). -/
def hostRead (p : Params) (r : Reg) : HostEvent := .read 8 (r.address p)

/-- `CMD.CONFIG` and `CMD.PROCESS` (30_encoding.md R113). -/
def hostCommand (p : Params) (i : Instr) : HostEvent := hostWrite p .cmd (encode i)

/-- `WAIT` where commands are instantaneous: a single read of STATUS (30_encoding.md R113). -/
def hostWait (p : Params) : HostEvent := hostRead p .status

/-- `config <q>, interp=<i>, min=<a>, max=<b>` (30_encoding.md R114). -/
def hostConfig (p : Params) (quality : Nat) (interp : Bool) (a b : F64) : List HostEvent :=
  [hostWrite p .opMinFactor a, hostWrite p .opMaxFactor b, hostCommand p (.config quality interp), hostWait p,
   hostRead p .status]

/-- `process <f>, in=[…], room=<m> [, last]` (30_encoding.md R115). -/
def hostProcess (p : Params) (f : F64) (samples : List Sample) (room : Nat) (last : Bool) : List HostEvent :=
  [.offer samples, hostWrite p .opFactor f, hostWrite p .opInCount (BitVec.ofNat 64 samples.length),
   hostWrite p .opOutRoom (BitVec.ofNat 64 room), hostCommand p (.process last), hostWait p, hostRead p .status,
   hostRead p .resInUsed, hostRead p .resOutWritten]

/-- The offer at position `pos` of the `stream` loop, and whether it reaches the end (30_encoding.md R116). -/
def streamOffer (stream : List Sample) (chunk pos : Nat) : List Sample × Bool :=
  let offer := (stream.drop pos).take chunk
  (offer, pos + offer.length == stream.length)

/-- One round of the `stream` loop (30_encoding.md R116). -/
def streamRound (p : Params) (f : F64) (stream : List Sample) (chunk room pos : Nat) : List HostEvent :=
  hostProcess p f (streamOffer stream chunk pos).1 room (streamOffer stream chunk pos).2

/-- The end test of the `stream` loop (30_encoding.md R116). -/
def streamDone (stream : List Sample) (pos : Nat) (s : State) : Bool :=
  pos == stream.length && s.engineState == .exhausted

/-- A change of the offer on an input port that is carried as bytes; absent when the bytes end inside a sample
(20_memory.md R77, R87). -/
def hostOfferBytes (bytes : List Byte) : Option HostEvent := (samplesOfBytes bytes).map .offer

end Sys2Proof.Machine
end

