-- ==== Sys2Proof/Tests/Slice0.lean ====
section
/-! SUPPORT. The model's own tests, with expected values from spec/95_test_vectors.md and the encoding tables, and the
witnesses: for each statement with hypotheses, concrete data that meet them (`witness_<statement>`). -/

namespace Sys2Proof.Tests

set_option Elab.async false

open Sys2Proof Sys2Proof.Machine

/-! ## Helpers -/

/-- The state an outcome goes on with. -/
def after (o : Host.Outcome State Fault Refusal) : State :=
  match o with
  | .next t => t
  | _ => State.reset

/-- Whether an outcome is a next state. -/
def isNext (o : Host.Outcome State Fault Refusal) : Bool :=
  match o with
  | .next _ => true
  | _ => false

theorem next_after {o : Host.Outcome State Fault Refusal} (h : isNext o = true) : o = .next (after o) := by
  cases o <;> simp_all [isNext, after]

/-- The reset state of the test configuration TC. -/
def tcIdle : State := { State.reset with params := Params.tc }

/-- TC after `config fast, interp=0, min=1.0, max=1.0`. -/
def tcReady : State := after (exec (.config 0 false) tcIdle)

/-- TC after `config fast, interp=1, min=0.5, max=2.0`. -/
def tcWide : State :=
  after (exec (.config 0 true)
    { tcIdle with opMinFactor := 0x3FE0000000000000#64, opMaxFactor := 0x4000000000000000#64 })

/-- The address of the register at an offset, in TC. -/
def tcAt (offset : Nat) : Nat := Params.tc.regBase + offset

/-- A state with an offer of samples, its count and a room. -/
def offered (s : State) (samples : List Sample) (room : Nat) : State :=
  { s with inPort := samples, opInCount := BitVec.ofNat 32 samples.length, opOutRoom := BitVec.ofNat 32 room }

/-- The offer of program A: 1.0 and seven zeros (95_test_vectors.md 4.1). -/
def impulse : List Sample := 0x3F800000#32 :: List.replicate 7 0#32

/-- Program A's first PROCESS, with all the room and with a room of 2. -/
def tcDone : State := after (exec (.process true) (offered tcReady impulse 32))
def tcPending : State := after (exec (.process true) (offered tcReady impulse 2))

/-- Program A's offer without LAST and with a room of 2: output pending before the flush. -/
def tcDraining : State := after (exec (.process false) (offered tcReady impulse 2))

/-- A block in which a command runs for two more steps. -/
def tcBusy (i : Instr) (events : List HostEvent) : State :=
  { tcReady with running := some i, busyLeft := 2, bus := events }

/-- A block whose PROCESS of 8 samples waits on the input port, on which 3 stand so far, while an event arrives. -/
def tcWaiting (event : HostEvent) : State :=
  { offered tcReady impulse 32 with
    inPort := impulse.take 3, running := some (.process true), bus := [event] }

/-- A faulted block. -/
def tcFaulted : State := { tcReady with fault := some .yovf, err := .fault }

/-- A block whose X was lost: PROCESS faults on its first sample. -/
def tcBroken : State := { offered tcReady impulse 32 with x := [] }

/-- The call of program A's first PROCESS, written out. -/
def callA : Call where
  params := Params.tc
  quality := .fast
  interp := false
  xoff := 4
  xsize := 16
  ysize := 18
  nwing := 8
  n := 8
  room := 2
  offer := impulse
  ready := some 2
  last := true
  mode := .up
  dh := 2 ^ 34
  lpscl := Sample.one
  dt := 2 ^ 32

/-- Words 0 to 15 of X holding zeros, with the cursor of a fresh stream. -/
def workA : Work where
  x := Memory.zeros 16
  y := [(0, 0x3F800000#32), (1, 0x3F000000#32), (2, 0x3E800000#32)]
  time := 2 ^ 34
  xp := 4
  xread := 4
  yp := 3
  flushed := false
  nout := 0
  moves := []

/-! ## Well-formedness -/

theorem test_config_quality_is_two_bits : ¬ (Instr.config 4 false).WellFormed := by decide
theorem test_config_quality_three_is_well_formed : (Instr.config 3 true).WellFormed := by decide
theorem test_process_is_well_formed : (Instr.process true).WellFormed := by decide

/-! ## Decoding: words written out bit by bit from 30_encoding.md R100: RSV, QUALITY, INTERP, LAST, OP -/

theorem test_decode_config :
    decode (0#56 ++ 0b01#2 ++ 0b1#1 ++ 0b0#1 ++ 0b0001#4) = .ok (.config 1 true) := by decide
theorem test_decode_process :
    decode (0#56 ++ 0b00#2 ++ 0b0#1 ++ 0b1#1 ++ 0b0010#4) = .ok (.process true) := by decide
theorem test_decode_last_in_config :
    decode (0#56 ++ 0b00#2 ++ 0b0#1 ++ 0b1#1 ++ 0b0001#4) = .error .lastInConfig := by decide
theorem test_decode_quality_in_process :
    decode (0#56 ++ 0b10#2 ++ 0b0#1 ++ 0b0#1 ++ 0b0010#4) = .error .configFieldsInProcess := by decide
theorem test_decode_interp_in_process :
    decode (0#56 ++ 0b00#2 ++ 0b1#1 ++ 0b0#1 ++ 0b0010#4) = .error .configFieldsInProcess := by decide
theorem test_decode_reserved_bit :
    decode (0b1#1 ++ 0#55 ++ 0b00#2 ++ 0b0#1 ++ 0b0#1 ++ 0b0001#4) = .error .reservedBits := by decide
theorem test_decode_reserved_op :
    decode (0#56 ++ 0b00#2 ++ 0b0#1 ++ 0b0#1 ++ 0b0011#4) = .error .reservedOp := by decide

/-! ## Bytes and addresses -/

/-- 20_memory.md R77: byte k of a sample is bits [8k+7:8k]. -/
theorem test_sample_bytes :
    bytesOfSamples [0x3F800001#32, 0xBF000000#32] = [0x01#8, 0x00#8, 0x80#8, 0x3F#8, 0x00#8, 0x00#8, 0x00#8, 0xBF#8] ∧
    samplesOfBytes [0x01#8, 0x00#8, 0x80#8, 0x3F#8] = some [0x3F800001#32] ∧
    samplesOfBytes [0x01#8, 0x00#8, 0x80#8] = none := by decide

/-- 20_memory.md R80: offsets count from REG_BASE, here 0x4000. -/
theorem test_window_base :
    accessed Params.tc 8 0x4008 = some .status ∧ accessed Params.tc 8 0x0008 = none ∧
    accessed Params.tc 8 0x40F8 = some .reserved ∧ accessed Params.tc 8 0x4100 = none := by decide

/-- 40_filter_design.md R136: I0(6.0) = 67.23440697647796; and a series whose terms overflow (log 28). -/
theorem test_bessel :
    besselI0 0x4018000000000000#64 = 0x4050CF00861E7B55#64 ∧ besselI0 0x408F400000000000#64 = f64Nan := by
  decide +kernel

/-- 00_scope.md R8 (5): an infinite YSIZE_PAD passes (log 27), one below 2.0 does not. -/
theorem test_ysize_pad :
    Params.valid { Params.tc with ysizePad := f64Inf } = true ∧
    Params.valid { Params.tc with ysizePad := 0x3FF0000000000000#64 } = false := by decide +kernel

/-- 00_scope.md R8 (4): a generated ROM whose window overflows is not finite (log 28). -/
theorem test_overflowing_beta :
    designCoeff 8 Params.tc.cutoff 0x408F400000000000#64 4 1 = f64Nan ∧ f32OfF64 f64Nan = 0x7FC00000#32 ∧
    binary32.isFinite 0x7FC00000 = false := by decide +kernel

/-! ## One step of each command -/

/-- 95_test_vectors.md 4.1, CONFIG of program A. -/
theorem test_config_sizes :
    let t := after (step (tcIdle.withFetchWord 64 0x21))
    t.xoff = 4#32 ∧ t.xsize = 16#32 ∧ t.ysize = 18#32 ∧ t.nwing = 8#32 ∧ t.time = 0x400000000#64 ∧
      t.cfg = 0x4#64 ∧ t.status = 0x1001#64 := by decide +kernel

/-- 42_engine.md R181, the example: default parameters, [0.5, 2.0]. -/
theorem test_config_default_sizes :
    sizesFor Params.default .fast 0x3FE0000000000000#64 0x4000000000000000#64 =
      some { xoff := 22, xsize := 4096, ysize := 8194 } := by decide +kernel

/-- 95_test_vectors.md 4.1, the first PROCESS of program A. -/
theorem test_process_impulse :
    let t := after (step ((offered tcReady impulse 32).withFetchWord 64 0x12))
    t.outPort = [0x3F800000#32, 0x3E000000#32, 0#32, 0#32, 0#32, 0#32, 0#32, 0#32] ∧ t.status = 0x3009#64 ∧
      t.resInUsed = 8#32 ∧ t.resOutWritten = 8#32 ∧ t.xread = 4#32 := by decide +kernel

/-- 95_test_vectors.md 4.1, the third PROCESS of program A: input after the flush. -/
theorem test_process_exhausted :
    (after (exec (.process false) (offered tcDone [0x3F000000#32] 32))).status.toNat / 2 ^ 8 % 16 = 7 := by
  decide +kernel

/-! ## Witnesses: encoding and steps -/

theorem witness_DecodeEncodeRoundTrip :
    (Instr.config 3 true).WellFormed ∧ decode 0xE1#64 = .ok (.config 3 true) ∧
    samplesOfBytes [0x01#8, 0x00#8, 0x80#8, 0x3F#8] = some [0x3F800001#32] := by decide

theorem witness_MalformedWordChangesOnlyErr :
    Malformed 0x3#64 ∧ Malformed 0x100000000000001#64 ∧ Malformed 0x11#64 ∧ Malformed 0x22#64 ∧
    Malformed 0x42#64 ∧ ¬ Malformed 0xE1#64 ∧ ¬ Malformed 0x12#64 ∧
    tcIdle.running = none ∧ isNext (step { tcIdle with bus := [.write 8 tcIdle.params.regBase 0x3#64] }) = true :=
  ⟨by decide, by decide, by decide, by decide, by decide, by decide, by decide, rfl,
   by decide +kernel⟩

theorem witness_StepRunsDecodedCommand :
    (∃ s : State, s.running = none ∧ s.bus = .write 8 s.params.regBase 0x21#64 :: [] ∧ s.latencies = []) ∧
    (∃ s : State, s.running = none ∧ s.bus = .write 8 s.params.regBase 0x21#64 :: [] ∧ s.latencies = 0 :: []) ∧
    (∃ s : State, s.running = none ∧ s.bus = .write 8 s.params.regBase 0x21#64 :: [] ∧
      s.latencies = (2 + 1) :: []) ∧
    decode 0x21#64 = .ok (.config 0 true) ∧ decodeTableWord 64 0x12 = some (.process true) :=
  ⟨⟨{ tcIdle with bus := [.write 8 (tcAt 0x00) 0x21#64] }, rfl, rfl, rfl⟩,
   ⟨{ tcIdle with bus := [.write 8 (tcAt 0x00) 0x21#64], latencies := [0] }, rfl, rfl, rfl⟩,
   ⟨{ tcIdle with bus := [.write 8 (tcAt 0x00) 0x21#64], latencies := [3] }, rfl, rfl, rfl⟩, by decide, by decide⟩

theorem witness_BusyCommandTakesEffectAtItsEnd :
    let s := tcBusy (.config 0 false) []
    s.running = some (.config 0 false) ∧ s.bus = [] ∧
      isNext (exec (.config 0 false) { s with busyLeft := 0 }) = true ∧
      (after (exec (.config 0 false) { s with busyLeft := 0 })).running = none := by decide +kernel

theorem witness_NothingStopsTheMachine :
    (offered tcReady impulse 32).PortsReady ∧ { offered tcReady impulse 32 with outReady := some 32 }.PortsReady ∧
    tcIdle.PortsReady := by decide +kernel

theorem witness_LoopBoundsNeverDecide :
    callA.limit ≤ 30 ∧ callA.ysize + 1 ≤ 19 ∧ workA.xp = callA.xoff ∧ workA.xread < callA.xsize ∧
    2 * callA.xoff < callA.xsize ∧ workA.used ≤ callA.n ∧ passBound callA workA ≤ 100 := by decide

/-! ## Witnesses: the register bus -/

/-- The command of `tcWaiting` waits, whatever event of each kind arrives: the premises of the clauses about a PROCESS
that waits on a port. -/
theorem witness_WaitsAs :
    ∀ e ∈ [HostEvent.reset, .read 8 (tcAt 0x08), .read 4 (tcAt 0x08), .write 8 (tcAt 0x00) 1#64, .offer impulse,
        .accept (some 4)],
      (tcWaiting e).running = some (.process true) ∧ (tcWaiting e).busyLeft = 0 ∧
        isNext (exec (.process true) (tcWaiting e)) = true ∧
        (after (exec (.process true) (tcWaiting e))).running ≠ none ∧ isNext (step (tcWaiting e)) = true := by
  decide +kernel

/-- One of them in the very form of the premises. -/
theorem witness_WaitsAs_reset :
    (tcWaiting .reset).WaitsAs (.process true) (after (exec (.process true) (tcWaiting .reset))) :=
  ⟨by decide +kernel, by decide +kernel, next_after (by decide +kernel), by decide +kernel⟩

theorem witness_RefusedAccessChangesNothing :
    accessed Params.tc 4 (tcAt 0x08) = none ∧ accessed Params.tc 8 (tcAt 0x0C) = none ∧
    accessed Params.tc 8 (tcAt 0x100) = none ∧ accessed Params.tc 8 0x3FF8 = none ∧
    0x3FF8 < Params.tc.regBase ∧ Params.tc.regBase + 0xF8 < tcAt 0x100 ∧
    (after (step (tcWaiting (.read 4 (tcAt 0x08))))).answer = some .busError ∧
    (after (step (tcWaiting (.read 4 (tcAt 0x08))))).busy = true ∧
    (after (step { tcIdle with bus := [.read 8 (tcAt 0x100)] })).answer = some .busError ∧
    (after (step (tcBusy (.process false) [.write 4 (tcAt 0x08) 0#64]))).answer = some .busError := by decide +kernel

theorem witness_ReadAnswersTheRegister :
    (after (step { tcIdle with bus := [.read 8 (tcAt (8 * 0))] })).answer = some (.value 0#64) ∧
    (after (step { tcReady with bus := [.read 8 (tcAt (8 * 1))] })).answer = some (.value 0x1001#64) ∧
    (after (step { tcIdle with bus := [.read 8 (tcAt (8 * 21))] })).answer = some (.value 0x050502#64) ∧
    (after (step { tcIdle with bus := [.read 8 (tcAt (8 * 31))] })).answer = some (.value 0#64) := by decide +kernel

theorem witness_WritesStoreTheOperandsOnly :
    (after (step { tcIdle with bus := [.write 8 (tcAt 0x10) 7#64, .read 8 (tcAt 0x10)] })).opMinFactor = 7#64 ∧
    (after (step { tcIdle with bus := [.write 8 (tcAt 0x30) 0x1FFFFFFFF#64, .read 8 (tcAt 0x30)] })).opOutRoom =
      0xFFFFFFFF#32 ∧
    (after (step { tcIdle with bus := [.write 8 (tcAt (8 * 1)) 7#64] })).status = 0#64 ∧
    (after (step { tcIdle with bus := [.write 8 (tcAt (8 * 7)) 7#64] })).resInUsed = 0#32 ∧
    (after (step { tcIdle with bus := [.write 8 (tcAt (8 * 31)) 7#64] })).answer = some .written := by decide +kernel

theorem witness_OverrunRecordsDroppedWrites :
    let s := tcBusy (.config 0 false) [.write 8 (tcAt (8 * 31)) 7#64]
    s.running = some (.config 0 false) ∧ s.busyLeft = 1 + 1 ∧ s.overrun = false ∧
      isNext (step s) = true ∧ (after (step s)).overrun = true ∧
      isNext (step (after (step s))) = true ∧ (after (step (after (step s)))).overrun = true := by
  decide +kernel

/-- A PROCESS that waits on the input port while a write arrives. -/
theorem witness_OverrunOfAWaitingCommand :
    (after (step (tcWaiting (.write 8 (tcAt (8 * 0)) 1#64)))).overrun = true := by decide +kernel

theorem witness_BusyReadKeepsTheFixedFields (k : Nat) :
    let s := tcBusy (.process true) [.read 8 (tcAt (8 * k))]
    s.running = some (.process true) ∧ s.busyLeft = 1 + 1 ∧
      s.bus = .read 8 (Params.tc.regBase + 8 * k) :: [] ∧ tcReady.params.regBase = Params.tc.regBase :=
  ⟨rfl, rfl, rfl, by decide +kernel⟩

/-! ## Witnesses: STATUS, reset, fault -/

theorem witness_EngineStateIsTheFirstMatch :
    tcFaulted.engineState.code = 7 ∧ (tcBusy (.process true) []).engineState.code = 4 ∧
    (tcBusy (.config 0 true) []).engineState.code = 5 ∧ tcIdle.engineState.code = 0 ∧
    tcReady.engineState.code = 1 ∧ tcPending.engineState.code = 2 ∧ tcDone.engineState.code = 3 := by
  decide +kernel

theorem witness_ResetPutsEveryRegisterAtItsValue :
    let s := tcBusy (.config 0 true) [.reset]
    s.running = some (.config 0 true) ∧ s.busyLeft = 1 + 1 ∧ s.bus = .reset :: [] ∧
      (after (step s)).configured = false ∧ (after (step (tcWaiting .reset))).busy = false ∧
      (after (step { tcReady with bus := [.reset] })).configured = false := by decide +kernel

theorem witness_ResetKeepsTransfersMade :
    let s := { offered tcReady impulse 32 with running := some (.process true), busyLeft := 2 }
    s.running = some (.process true) ∧ processRefusal s = none ∧
      (processRun (s.call true) s.work).reached.used = 8 ∧
      (processRun (s.call true) s.work).reached.moves.take 9 = List.replicate 8 .input ++ [.output 0x3F800000#32] ∧
      (tcBusy (.config 0 true) []).running = some (.config 0 true) ∧ tcReady.running = none := by decide +kernel

theorem witness_FaultedBlockRefusesEveryCommand :
    tcFaulted.fault ≠ none ∧ tcFaulted.fault = some .yovf ∧
    isNext (step { tcFaulted with bus := [.write 8 (tcAt 0x00) 0x12#64] }) = true := by decide +kernel

theorem witness_FaultKeepsTheConfiguration :
    processRefusal tcBroken = none ∧
    (match processRun (tcBroken.call true) tcBroken.work with
     | .fault cause _ => cause == .range
     | _ => false) = true := by decide +kernel

/-! ## Witnesses: values of a call, and CONFIG -/

theorem witness_CallValues :
    0 < (0x3FE0000000000000#64 : F64).toNat ∧ (0x3FE0000000000000#64 : F64).toNat < 0x7FF0000000000000 ∧
    ({ tcWide with opFactor := 0x3FEFFFFFFFFFFFFF#64 }.call true).mode = .ud ∧
    ({ tcWide with opFactor := 0x3FF0000000000000#64 }.call true).mode = .up ∧
    ({ tcWide with opFactor := 0x3FE0000000000000#64 }.call true).dt = 2 ^ 33 ∧
    ({ tcWide with opFactor := 0x3FE0000000000000#64 }.call true).dh = 0x200000000 := by decide +kernel

theorem witness_ConfigRefusesBadBounds :
    (after (exec (.config 0 false) { tcIdle with opMinFactor := 0#64 })).err = .bounds ∧
    (after (exec (.config 0 false) { tcIdle with opMinFactor := 0x4000000000000000#64 })).err = .bounds ∧
    (after (exec (.config 0 false) { tcIdle with opMaxFactor := 0x7FF0000000000000#64 })).err = .bounds ∧
    (after (exec (.config 0 false) { tcIdle with opMaxFactor := 0x7FF8000000000000#64 })).err = .bounds ∧
    tcIdle.fault = none := by decide +kernel

theorem witness_ConfigRefusesUnsupportedTiers :
    tcIdle.fault = none ∧ (after (exec (.config 2 false) tcIdle)).err = .quality ∧
    (after (exec (.config 3 true) { tcIdle with opMinFactor := 0#64 })).err = .bounds := by decide +kernel

theorem witness_FailedConfigDiscardsTheStream :
    let t := after (exec (.config 2 false) tcReady)
    tcReady.fault = none ∧ isNext (exec (.config 2 false) tcReady) = true ∧ t.err ≠ .ok ∧
      t.fault = none ∧ t.configured = false ∧
      (after (step (t.withFetchWord 64 0x01))).configured = true := by decide +kernel

theorem witness_ConfigSizesTheBuffers :
    tcIdle.fault = none ∧ boundsOk tcIdle.opMinFactor tcIdle.opMaxFactor = true ∧
    (after (exec (.config 1 false) tcIdle)).err = .ok ∧
    (after (exec (.config 0 false) { tcIdle with params := { Params.tc with xCap := 19 } })).err = .capacity ∧
    (after (exec (.config 0 false) { tcIdle with params := { Params.tc with xCap := 20 } })).err = .ok ∧
    (after (exec (.config 0 false) { tcIdle with params := { Params.tc with yCap := 17 } })).err = .capacity ∧
    (after (exec (.config 0 false) { tcIdle with params := { Params.tc with yCap := 18 } })).err = .ok := by
  decide +kernel

theorem witness_ConfigStartsAFreshStream :
    tcIdle.fault = none ∧ boundsOk tcIdle.opMinFactor tcIdle.opMaxFactor = true ∧
    sizesFor tcIdle.params .fast tcIdle.opMinFactor tcIdle.opMaxFactor =
      some { xoff := 4, xsize := 16, ysize := 18 } := by decide +kernel

/-- Also the hypotheses of ConfigSizesReachEveryFactor. -/
theorem witness_ConfigEstablishesTheInvariants :
    Params.Fit tcIdle.params ∧ tcIdle.fault = none ∧ isNext (exec (.config 0 false) tcIdle) = true ∧
    tcReady.err = .ok := by decide +kernel

/-! ## Witnesses: the parts of PROCESS -/

theorem witness_ProcessRefusals :
    tcIdle.fault = none ∧ tcIdle.configured = false ∧ tcReady.fault = none ∧ tcReady.configured = true ∧
    f64Le tcReady.cfgMinFactor 0x3FE0000000000000#64 = false ∧
    f64Le tcReady.cfgMinFactor tcReady.opFactor = true ∧ f64Le tcReady.opFactor tcReady.cfgMaxFactor = true ∧
    tcDone.fault = none ∧ tcDone.configured = true ∧ tcDone.flushed = true ∧ tcDone.opInCount ≠ 0#32 ∧
    tcReady.flushed = false := by decide +kernel

theorem witness_DrainDeliversAndShifts :
    workA.yp ≤ callA.ysize ∧ (∀ i < workA.yp, (workA.y.read i).isSome = true) ∧
    (∀ ready ∈ callA.ready, workA.written + min (callA.room - workA.written) workA.yp ≤ ready) ∧
    (∀ ready ∈ (none : Option Nat), workA.written + min (callA.room - workA.written) workA.yp ≤ ready) ∧
    workA.written ≤ 1 ∧ 1 < workA.written + min (callA.room - workA.written) workA.yp ∧
    drain { callA with ready := some 1 } workA = .stall { workA with moves := [.output 0x3F800000#32] } := by
  decide

theorem witness_PullTakesTheNextSamples : callA.n ≤ callA.offer.length := by decide

theorem witness_FinalBatchPadsWithZeros :
    ∃ w1, pull callA workA = .done w1 ∧ w1.xread ≤ callA.xsize ∧ callA.last = true ∧ w1.used = callA.n ∧
      (pull { callA with last := false } workA = .done w1) :=
  ⟨{ workA with x := workA.x.write 4 0x3F800000#32, moves := List.replicate 8 .input, xread := 12 },
   by decide, by decide, by decide, by decide, by decide⟩

theorem witness_PassMakesEverySampleBelowTheBound :
    0 < callA.dt ∧ (∀ k, k < 8 ↔ workA.time + k * callA.dt < 2 ^ 32 * (callA.xoff + 8)) ∧
    (∀ k < 8, (sample callA workA.x (workA.time + k * callA.dt)).isSome = true) ∧ 8 ≤ callA.ysize ∧
    (∀ k < 8, (sample { callA with ysize := 7 } workA.x (workA.time + k * callA.dt)).isSome = true) := by
  refine ⟨by decide, fun k => ?_, by decide +kernel, by decide, by decide +kernel⟩
  simp only [workA, callA]
  omega

theorem witness_RetireRebasesTheCursor :
    2 ^ 32 * (callA.xoff + 8) ≤ ({ workA with time := 2 ^ 32 * 12 + 5 } : Work).time := by decide

theorem witness_RetireShiftsX :
    let w := { workA with xp := 12, xread := 16 }
    callA.xoff ≤ w.xp ∧ w.xp - callA.xoff ≤ w.xread ∧ w.xread ≤ callA.limit ∧
      ∀ i < w.xread, (w.x.read i).isSome = true := by decide

/-! ## Witnesses: the kernel and the arithmetic -/

theorem witness_DifferenceTableRule :
    Params.tc.imp .fast 7 = some 0x3C800000#32 ∧ 7 + 1 = Params.tc.nwing .fast ∧
    Params.tc.imp .fast 0 = some 0x3F800000#32 ∧ Params.tc.imp .fast (0 + 1) = some 0x3F600000#32 := by decide

/-- Weights of both kinds, and both wings of a sample in both modes. -/
theorem witness_WingIsTheOrderedTapSum_parts :
    callA.params.imp callA.quality 0 = some 0x3F800000#32 ∧ callA.interp = false ∧
    callA.params.impd callA.quality 0 = some 0xBE000000#32 ∧
    tapWeight { callA with interp := true } 0 0x3F000000#32 = some 0x3F700000#32 ∧ callA.mode = .up ∧
    filterUp callA workA.x .left ((2 ^ 34 / 2 ^ 32 : Nat) : Int) (2 ^ 34 % 2 ^ 32) = some 0#32 ∧
    filterUp callA workA.x .right ((2 ^ 34 / 2 ^ 32 + 1 : Nat) : Int) (2 ^ 32 - 2 ^ 34 % 2 ^ 32) = some 0#32 ∧
    filterUd callA workA.x .left ((2 ^ 34 / 2 ^ 32 : Nat) : Int) (2 ^ 34 % 2 ^ 32) callA.dh = some 0#32 ∧
    filterUd callA workA.x .right ((2 ^ 34 / 2 ^ 32 + 1 : Nat) : Int) (2 ^ 32 - 2 ^ 34 % 2 ^ 32) callA.dh =
      some 0#32 := by decide +kernel

/-- The left wing of vector K1's position over zeros: taps at entries 0 and 4, in both modes. -/
theorem witness_WingIsTheOrderedTapSum :
    (∀ j : Nat, j < 2 → xRead callA workA.x (8 + Wing.left.dir * j) = some 0#32) ∧
    (∀ j, j < 2 ↔ 2 ^ callA.params.k * 0 / 2 ^ 32 + j * callA.params.npc < Wing.left.tapEnd callA.nwing) ∧
    (∀ j < 2, tapWeight callA (2 ^ callA.params.k * 0 / 2 ^ 32 + j * callA.params.npc)
      (f32OfRatio (2 ^ callA.params.k * 0 % 2 ^ 32) (2 ^ 32)) =
      some ([0x3F800000#32, 0x3E000000#32].getD j 0#32)) ∧
    (∀ j, j < 2 ↔ (0 * 2 ^ 34 / 2 ^ 32 + j * 2 ^ 34) / 2 ^ 32 < Wing.left.tapEnd callA.nwing) ∧
    (∀ j < 2, tapWeight callA ((0 * 2 ^ 34 / 2 ^ 32 + j * 2 ^ 34) / 2 ^ 32)
      (f32OfRatio ((0 * 2 ^ 34 / 2 ^ 32 + j * 2 ^ 34) % 2 ^ 32) (2 ^ 32)) =
      some ([0x3F800000#32, 0x3E000000#32].getD j 0#32)) := by
  refine ⟨by decide +kernel, fun j => ?_, by decide +kernel, fun j => ?_, by decide +kernel⟩ <;>
    simp [callA, Params.tc, Params.npc, Wing.tapEnd] <;> omega

theorem witness_SampleReachesOnlyWrittenWords :
    callA.nwing = callA.params.nwing callA.quality ∧ RomTotal callA.params callA.quality ∧
    callA.nwing ≤ callA.xoff * callA.params.npc ∧ 2 ^ 32 * callA.nwing ≤ callA.xoff * callA.dh ∧
    callA.xoff ≤ 2 ^ 34 / 2 ^ 32 + 1 ∧ 2 ^ 34 / 2 ^ 32 + callA.xoff < callA.limit ∧
    ∀ k ≤ 2 ^ 34 / 2 ^ 32 + callA.xoff, (workA.x.read k).isSome = true := by decide

theorem witness_ModesAgreeAtTheClamp :
    0 < (0x3FEFFFFFFFFFFFFF#64 : F64).toNat ∧ (0x3FEFFFFFFFFFFFFF#64 : F64).toNat < 0x3FF0000000000000 ∧
    tableStep (2 ^ 1) 0x3FEFFFFFFFFFFFFF#64 = 2 ^ 32 * 2 ^ 1 := by decide +kernel

/-- With interpolation: every word of X a zero, and TC's table, whose entries and differences are at most 1.0. -/
theorem witness_SilenceGivesPositiveZero :
    (∀ i a, workA.x.read i = some a → a = 0x00000000#32 ∨ a = 0x80000000#32) ∧
    (∀ h t, callA.params.imp callA.quality h = some t →
      t.toNat % 2 ^ 31 < 0x7F800000 ∧ (true = true → t.toNat % 2 ^ 31 ≤ 0x7E000000)) ∧
    (∀ h r t, r < 2 ^ 32 → tapWeight { callA with interp := true } h (f32OfRatio r (2 ^ 32)) = some t →
      t.toNat % 2 ^ 31 < 0x7F800000) ∧
    callA.lpscl.toNat < 0x7F800000 ∧
    sample { callA with interp := true } workA.x (2 ^ 34 + 2 ^ 31) = some 0x00000000#32 := by
  have bound : ∀ h < 8, ((Params.tc.imp .fast h).all fun t => decide (t.toNat % 2 ^ 31 ≤ 2 ^ 23 * (126 + 1))) = true ∧
      ((Params.tc.impd .fast h).all fun t => decide (t.toNat % 2 ^ 31 ≤ 2 ^ 23 * (126 + 1))) = true := by
    decide +kernel
  have inside : ∀ h t, Params.tc.imp .fast h = some t → h < 8 := fun h t e => by
    by_contra hn
    simp [Params.imp, Params.nwing, Params.tc, show ¬ h < 8 from hn] at e
  refine ⟨fun i a h => .inl ?_, fun h t e => ?_, fun h r t hr ht => ?_, by decide, by decide +kernel⟩
  · rw [show workA.x = Memory.zeros 16 from rfl, Memory.read_zeros] at h
    split at h <;> simp_all [Sample.zero]
  · have := (bound h (inside h t e)).1
    rw [show Params.tc.imp .fast h = some t from e] at this
    simp at this
    omega
  · refine tapWeight_finite (c := { callA with interp := true }) (p := 126) (by decide) ?_ ?_ hr ht
    · intro h t e
      have := (bound h (inside h t e)).1
      rw [show Params.tc.imp .fast h = some t from e] at this
      simpa using this
    · intro h d e
      have hh : h < 8 := by
        by_contra hn
        have h1 : Params.tc.imp .fast h = none := by
          cases e1 : Params.tc.imp .fast h with
          | none => rfl
          | some t => exact absurd (inside h t e1) hn
        have e : Params.tc.impd .fast h = some d := e
        unfold Params.impd at e
        rw [h1] at e
        have hne : ¬ h + 1 = Params.tc.nwing .fast := by simp [Params.tc, Params.nwing]; omega
        rw [if_neg hne] at e
        split at e <;> simp_all
      have := (bound h hh).2
      rw [show Params.tc.impd .fast h = some d from e] at this
      simpa using this

theorem witness_RoundingIsToNearestEven :
    binary32.roundMag 3 2 < binary32.infBits ∧ binary32.roundMag 3 2 = 2 ∧
    binary32.roundMag (2 ^ 300) 1 = binary32.infBits ∧
    binary32.Finite (0xBF800000#32 : Sample).toNat ∧ ¬ binary32.Finite (0x7F800000#32 : Sample).toNat ∧
    binary32.exact (0xBF800000#32 : Sample).toNat = -2 ^ 149 ∧ binary64.Finite (0x3FF0000000000000#64 : F64).toNat ∧
    binary64.exact (0x3FF0000000000000#64 : F64).toNat = 2 ^ 1074 := by decide +kernel

theorem witness_SpecialValuesOfArithmetic :
    Sample.IsNaN 0x7F800001#32 ∧ Sample.IsNaN 0xFFC00000#32 ∧ ¬ Sample.IsNaN 0x7F800000#32 ∧
    f32Add 0xFF800000#32 0x3F800000#32 = 0xFF800000#32 ∧ f32Mul 0xFF800000#32 0xBF800000#32 = 0x7F800000#32 ∧
    (0x3F800000#32 : Sample) ≠ 0xFF800000#32 ^^^ 0x80000000#32 ∧ (0xBF800000#32 : Sample).toNat % 2 ^ 31 ≠ 0 ∧
    (0xFF800000#32 : Sample).toNat % 2 ^ 31 = 0x7F800000 ∧ (0x80000000#32 : Sample).toNat % 2 ^ 31 = 0 ∧
    Sample.IsNaN (f32Add 0x7F800000#32 0xFF800000#32) ∧ Sample.IsNaN (f32Mul 0x7F800000#32 0x80000000#32) := by
  decide +kernel

/-! ## Witnesses: PROCESS as a whole -/

theorem witness_AcceptedProcessCompletes :
    (offered tcReady impulse 32).StreamInv ∧ (offered tcReady impulse 32).SizesReach ∧
    RomTotal tcReady.params tcReady.cfgQuality ∧ (offered tcReady impulse 32).Accepts ∧
    (offered { tcWide with opFactor := 0x3FE0000000000000#64 } impulse 3).StreamInv ∧
    tcWide.SizesReach :=
  ⟨by decide +kernel, by decide +kernel, by decide +kernel, by decide +kernel, by decide +kernel, by decide +kernel⟩

/-- Also of ProcessFrame and of AcceptedProcessMakesProgress, with nothing and with something pending. -/
theorem witness_ProcessAccounting :
    isNext (exec (.process true) (offered tcReady impulse 2)) = true ∧ tcPending.running = none ∧
    tcPending.err = .ok ∧ tcPending.resOutWritten = 2#32 ∧ tcPending.yp = 6#32 ∧ tcPending.StreamInv ∧
    tcReady.yp = 0#32 ∧ tcReady.flushed = false ∧
    (after (exec (.process true) (offered tcPending [] 2))).err = .ok := by decide +kernel

theorem witness_ConfigFrame :
    isNext (exec (.config 2 false) tcDone) = true ∧ tcDone.fault = none ∧ tcDone.params.xCap ≤ 2 ^ 31 - 1 ∧
    (after (exec (.config 2 false) tcDone)).err ≠ .ok ∧ tcFaulted.fault ≠ none := by decide +kernel

theorem witness_PendingOutputBlocksInput :
    let s := offered tcPending [] 5
    processRefusal s = none ∧ s.opOutRoom.toNat < s.yp.toNat ∧ s.Takes s.opOutRoom.toNat ∧
      { s with outReady := some 5 }.Takes s.opOutRoom.toNat ∧ s.yp.toNat ≤ s.ysize.toNat ∧
      ∀ i < s.yp.toNat, (s.y.read i).isSome = true := by decide +kernel

theorem witness_AfterTheFlushOnlyDraining :
    let s := offered tcPending [] 6
    processRefusal s = none ∧ s.flushed = true ∧ s.yp.toNat ≤ s.ysize.toNat ∧
      s.Takes (min s.opOutRoom.toNat s.yp.toNat) ∧
      (∀ i < s.yp.toNat, (s.y.read i).isSome = true) ∧
      processRefusal (offered tcDone [] 6) = none ∧ tcDone.flushed = true ∧ tcDone.yp = 0#32 := by
  decide +kernel

theorem witness_NothingEligibleChangesNothing :
    processRefusal tcReady = none ∧ tcReady.opInCount = 0#32 ∧ tcReady.yp = 0#32 ∧ tcReady.flushed = false ∧
    tcReady.xread.toNat ≤ 2 * tcReady.xoff.toNat := by decide +kernel

theorem witness_EmptyStreamExhaustsAtOnce :
    tcIdle.params.sized = true ∧ tcIdle.fault = none ∧ isNext (exec (.config 0 false) tcIdle) = true ∧
    tcReady.err = .ok ∧ f64Le tcReady.cfgMinFactor F64.one = true ∧
    f64Le F64.one tcReady.cfgMaxFactor = true := by decide +kernel

/-- A PROCESS of 8 samples of which the host presents 3 so far, and one that drains 6 samples to a port that accepts 4.
The clauses about the events have their premises in `witness_WaitsAs`. -/
theorem witness_PortStallKeepsBusy :
    let s := { offered tcReady impulse 32 with inPort := impulse.take 3 }
    let r := { offered tcPending [] 6 with outReady := some 4 }
    isNext (exec (.process true) s) = true ∧ (after (exec (.process true) s)).running ≠ none ∧ s.busyLeft = 0 ∧
      processRefusal s = none ∧ s.yp = 0#32 ∧ s.flushed = false ∧
      s.inPort.length < min (s.xsize.toNat - s.xread.toNat) s.opInCount.toNat ∧
      processRefusal r = none ∧ r.yp.toNat ≤ r.ysize.toNat ∧ (∀ i < r.yp.toNat, (r.y.read i).isSome = true) ∧
      4 < min r.opOutRoom.toNat r.yp.toNat ∧ (after (exec (.process false) r)).busy = true ∧
      (after (exec (.process false) { r with outReady := some 6 })).busy = false ∧
      (after (step { r with running := some (.process false), bus := [.accept (some 6)] })).outReady = some 6 := by
  decide +kernel

theorem witness_EngineStateTransitions :
    tcReady.running = none ∧ tcFaulted.engineState = .faulted ∧ tcIdle.engineState = .unconfigured ∧
    tcDone.engineState = .exhausted ∧ tcPending.engineState = .draining ∧ tcPending.flushed = true ∧
    isNext (exec (.process false) (offered tcPending [] 5)) = true ∧
    (after (exec (.process false) (offered tcPending [] 5))).running = none ∧
    (after (exec (.process false) (offered tcPending [] 5))).fault = tcPending.fault ∧
    (after (exec (.process false) (offered tcPending [] 6))).engineState = .exhausted ∧
    tcReady.engineState = .awaitingInput ∧ tcPending.err = .ok ∧ tcDone.err = .ok ∧ tcDraining.flushed = false ∧
    tcDraining.engineState = .draining ∧
    isNext (exec (.process false) (offered tcDraining [] 32)) = true ∧
    (after (exec (.process false) (offered tcDraining [] 32))).engineState = .awaitingInput ∧
    (after (exec (.process true) (offered tcDraining [] 32))).engineState = .exhausted := by decide +kernel

/-! ## Witnesses: the whole machine and the stream -/

/-- Also of StepKeepsMemoriesCanonical and of OnlyConfigAndResetChangeTheConfiguration. -/
theorem witness_StepKeepsStreamInvariant :
    tcPending.StreamInv ∧ tcPending.configured = true ∧ tcPending.fault = none ∧ isNext (step tcPending) = true ∧
    isNext (step (tcPending.withFetchWord 64 0x02)) = true := by decide +kernel

/-- In a configured block, with its whole offer, with part of it, and with an output port that accepts nothing. -/
theorem witness_NoStepFaults :
    (offered tcReady impulse 32).Sound ∧ (tcWaiting .reset).Sound ∧
    { offered tcPending [] 6 with outReady := some 0 }.Sound ∧ tcIdle.Sound ∧
    isNext (step ((offered tcReady impulse 32).withFetchWord 64 0x12)) = true ∧
    (after (step ((offered tcReady impulse 32).withFetchWord 64 0x12))).fault = none :=
  ⟨by decide +kernel, by decide +kernel, by decide +kernel, by decide +kernel, by decide +kernel, by decide +kernel⟩

theorem witness_ResetHasStreamInvariant :
    Params.tc.valid = true ∧ Params.tc.nwingFast < 2 ^ 32 ∧ Params.tc.nwingHigh < 2 ^ 32 := by decide +kernel

/-- Program A's stream at its beginning, and the offer that takes all of it. -/
theorem witness_ProcessContinuesTheStream :
    let s := offered tcReady impulse 32
    s.StreamInv ∧ s.SizesReach ∧ RomTotal s.params s.cfgQuality ∧ s.Accepts ∧ s.Tracks impulse 0 0 0 ∧
      s.inPort.take s.opInCount.toNat = (impulse.drop 0).take s.opInCount.toNat ∧
      0 + s.opInCount.toNat = impulse.length ∧ isNext (exec (.process true) s) = true :=
  ⟨by decide +kernel, by decide +kernel, by decide +kernel, by decide +kernel, by decide +kernel, by decide +kernel,
   by decide +kernel, by decide +kernel⟩

/-- Program A's stream in offers of 3 with a room of 2 until it is drained. -/
theorem witness_ChunkingInvariance :
    let calls := List.replicate 8 (3, 2)
    tcReady.StreamInv ∧ tcReady.SizesReach ∧ tcReady.configured = true ∧ tcReady.fault = none ∧
      tcReady.Tracks impulse 0 0 0 ∧ tcReady.flushed = false ∧
      (∀ call ∈ calls, call.1 < 2 ^ 32 ∧ call.2 < 2 ^ 32) ∧
      (streamCalls impulse calls 0 tcReady).map (fun r => (r.1, r.2.engineState)) = some (8, .exhausted) :=
  ⟨by decide +kernel, by decide +kernel, by decide +kernel, by decide +kernel, by decide +kernel, by decide +kernel,
   by decide, by decide +kernel⟩

end Sys2Proof.Tests
end

section
/-! PROOFS. The time a command takes (spec/10_state.md R35) and the block after power-on (spec/00_scope.md R8). -/

namespace Sys2Proof.Machine

/-! ## The duration of a command -/

/-- A run begins with a step. -/
theorem core_run_succ {s t : State} (h : step s = .next t) (k : Nat) :
    Sys2Proof.core.run (k + 1) s = Sys2Proof.core.run k t := by
  have hs : Sys2Proof.core.step s = .next t := h
  simp only [Host.Core.run, hs]

/-- Before the last step of a command an undisturbed block only counts down. -/
theorem step_counts_down {s : State} {i : Instr} {d : Nat} (hi : s.running = some i) (hbus : s.bus = [])
    (hd : s.busyLeft = d + 1) : step s = .next { s with busyLeft := d } := by
  obtain ⟨hr, -⟩ | ⟨j, -, h0, -⟩ | ⟨j, -, -, h⟩ := step_cases s
  · simp [hi] at hr
  · simp [hd] at h0
  · rw [h, hd]
    simp [serveWhileBusy, hbus]

/-- In its last step a command that does not wait has the effect of `exec`. -/
theorem step_ends_command {s t : State} {i : Instr} (hi : s.running = some i) (h0 : s.busyLeft = 0)
    (he : exec i s = .next t) (ht : t.running = none) : step s = .next t := by
  obtain ⟨hr, -⟩ | ⟨j, hj, -, h⟩ | ⟨-, -, hne, -⟩ := step_cases s
  · simp [hi] at hr
  · obtain rfl : i = j := by simpa [hi] using hj
    rw [h, completeCommand, he]
    simp [State.busy, ht]
  · exact absurd h0 hne

/-- `k` undisturbed steps of a running command take `k` off its duration. -/
theorem run_counts_down {i : Instr} : ∀ (k : Nat) {s : State}, s.running = some i → s.bus = [] → k ≤ s.busyLeft →
    Sys2Proof.core.run k s = .next { s with busyLeft := s.busyLeft - k }
  | 0, _, _, _, _ => rfl
  | k + 1, s, hi, hbus, hk => by
    obtain ⟨d, hd⟩ : ∃ d, s.busyLeft = d + 1 := ⟨s.busyLeft - 1, by omega⟩
    rw [core_run_succ (step_counts_down hi hbus hd), run_counts_down k (by exact hi) (by exact hbus) (by simp; omega)]
    simp [hd]

/-- An undisturbed command of duration `d` that does not wait ends in step `d + 1` with the effect of `exec`. -/
theorem run_to_end {i : Instr} {t : State} (ht : t.running = none) : ∀ (d : Nat) {s : State}, s.running = some i →
    s.bus = [] → s.busyLeft = d → exec i { s with busyLeft := 0 } = .next t → Sys2Proof.core.run (d + 1) s = .next t
  | 0, s, hi, _, hd, he => by
    have hs : { s with busyLeft := 0 } = s := by rw [← hd]
    exact core_run_succ (step_ends_command hi hd (hs ▸ he) ht) 0
  | d + 1, s, hi, hbus, hd, he => by
    rw [core_run_succ (step_counts_down hi hbus hd)]
    exact run_to_end ht d (s := { s with busyLeft := d }) hi hbus rfl he

/-- Settles O6: the block counts down until the last step, which has the effect of `exec`. -/
theorem busyCommandTakesEffectAtItsEnd : Obligations.BusyCommandTakesEffectAtItsEnd := by
  intro s t i hi hbus he ht
  exact ⟨fun k hk => run_counts_down k hi hbus hk, run_to_end ht _ hi hbus rfl he⟩

/-! ## After power-on -/

/-- A block that is not configured meets the invariants when its parameters fit and its memories are empty. -/
theorem streamInv_of_unconfigured {s : State} (hp : Params.Fit s.params) (hx : s.x = []) (hy : s.y = [])
    (hc : s.configured = false) : s.StreamInv :=
  ⟨hp, ⟨hx ▸ Memory.wf_nil, hy ▸ Memory.wf_nil⟩, fun h => by simp [hc] at h⟩

/-- A ROM whose entries are all finite has all its entries. -/
theorem romTotal_of_romFinite {p : Params} {q : Quality} (h : p.romFinite q = true) : RomTotal p q := by
  intro k hk
  have hk := List.all_eq_true.mp h k (List.mem_range.mpr hk)
  cases hi : p.imp q k with
  | none => simp [hi] at hk
  | some c => rfl

theorem default_fit : Params.Fit Params.default := by decide +kernel

/-- A block is built exactly from valid parameters, and in the reset state. -/
theorem instantiate_eq_some {p : Params} {s : State} :
    State.instantiate p = some s ↔ p.valid = true ∧ { State.reset with params := p } = s := by
  unfold State.instantiate
  split <;> simp [*]

/-- Valid parameters are sized, and both their ROMs are finite. -/
theorem Params.valid_parts {p : Params} (h : p.valid = true) :
    p.sized = true ∧ p.romFinite .fast = true ∧ p.romFinite .high = true := by
  unfold Params.valid at h
  simp only [Bool.and_eq_true] at h
  obtain ⟨⟨⟨⟨hs, -⟩, -⟩, hf⟩, hh⟩ := h
  exact ⟨hs, hf, hh⟩

/-- Settles O55: an unconfigured block with empty memories asks nothing but fitting parameters and whole ROMs. -/
theorem resetHasStreamInvariant : Obligations.ResetHasStreamInvariant := by
  refine ⟨streamInv_of_unconfigured default_fit rfl rfl rfl, fun p s hs hf hh => ?_⟩
  obtain ⟨hv, rfl⟩ := instantiate_eq_some.mp hs
  obtain ⟨hsized, hromf, hromh⟩ := Params.valid_parts hv
  exact ⟨streamInv_of_unconfigured ⟨hsized, hf, hh⟩ rfl rfl rfl, rfl, fun h => by simp [State.reset] at h,
    romTotal_of_romFinite hromf, romTotal_of_romFinite hromh⟩

end Sys2Proof.Machine
end

section
/-! PROOFS. Rounding to nearest even (spec/00_scope.md R11, R12): the values of bit patterns, and that the pattern
`Format.roundMag` chooses is the nearest one. -/

namespace Sys2Proof.Machine

/-! ## The nearest integer to a quotient -/

theorem rneDiv_nearestEven {n d : Nat} (hd : 0 < d) : NearestEven n d (rneDiv n d) := by
  have hn : d * (n / d) + n % d = n := Nat.div_add_mod n d
  have hr : n % d < d := Nat.mod_lt n hd
  have up : ∀ q, (2 * q + 1) * d = 2 * (d * q) + d := fun q => by ring
  have down : ∀ q, 2 * q * d = 2 * (d * q) := fun q => by ring
  unfold NearestEven rneDiv
  simp only [up, down]
  split
  · omega
  · split
    · rw [Nat.mul_succ]; omega
    · rcases Nat.mod_two_eq_zero_or_one (n / d) with h | h
      · rw [h, Nat.add_zero]; omega
      · rw [h, Nat.mul_succ]; omega

/-- A quotient rounded to nearest is not less than an integer that the exact quotient reaches. -/
theorem le_rneDiv {n d c : Nat} (hd : 0 < d) (h : d * c ≤ n) : c ≤ rneDiv n d := by
  have hc : c ≤ n / d := (Nat.le_div_iff_mul_le hd).mpr (by rwa [Nat.mul_comm])
  unfold rneDiv
  split
  · exact hc
  · split <;> omega

/-- No multiple of `d` is nearer to `n` than the one of a nearest integer, and one that is as near shows that integer
to be even. -/
theorem NearestEven.dist_le {n d q : Nat} (hd : 0 < d) (h : NearestEven n d q) (j : Nat) :
    ((n : Int) - q * d).natAbs ≤ ((n : Int) - j * d).natAbs ∧
    (((n : Int) - q * d).natAbs = ((n : Int) - j * d).natAbs → j ≠ q → q % 2 = 0) := by
  obtain ⟨hup, hdown, htop, hbot⟩ := h
  rw [show (2 * q + 1) * d = 2 * (q * d) + d by ring] at hup htop
  rw [show 2 * q * d = 2 * (q * d) by ring] at hdown hbot
  rw [← Int.natCast_mul, ← Int.natCast_mul]
  rcases Nat.lt_trichotomy j q with hj | rfl | hj
  · obtain ⟨r, rfl⟩ : ∃ r, q = j + 1 + r := ⟨q - (j + 1), by omega⟩
    have hq : (j + 1 + r) * d = j * d + d + r * d := by ring
    omega
  · simp
  · obtain ⟨r, rfl⟩ : ∃ r, j = q + 1 + r := ⟨j - (q + 1), by omega⟩
    have hj' : (q + 1 + r) * d = q * d + d + r * d := by ring
    omega

/-! ## The value of a pattern -/

/-- The magnitude of a pattern without its sign, in units of the least subnormal, read with no bound on the exponent:
the pattern of infinity has the value that follows the largest finite one. -/
def Format.value (F : Format) (b : Nat) : Nat :=
  if b / 2 ^ F.fracBits = 0 then b % 2 ^ F.fracBits
  else 2 ^ (b / 2 ^ F.fracBits - 1) * (2 ^ F.fracBits + b % 2 ^ F.fracBits)

/-- A significand `m` at the scale 2^k: `m` may be one step past its width, which is the carry into the exponent. -/
theorem Format.value_add (F : Format) {k m : Nat} (hm : m ≤ 2 ^ F.fracBits * 2) (hk : k = 0 ∨ 2 ^ F.fracBits ≤ m) :
    F.value (2 ^ F.fracBits * k + m) = 2 ^ k * m := by
  have hpos : 0 < 2 ^ F.fracBits := Nat.two_pow_pos _
  unfold Format.value
  generalize 2 ^ F.fracBits = B at *
  rw [Nat.mul_add_div hpos, Nat.mul_add_mod]
  rcases Nat.lt_or_ge m B with hlt | hge
  · obtain rfl : k = 0 := by omega
    simp [Nat.div_eq_of_lt hlt, Nat.mod_eq_of_lt hlt]
  · rcases Nat.lt_or_eq_of_le hm with hlt | rfl
    · have hd : m / B = 1 := Nat.div_eq_of_lt_le (by omega) (by omega)
      have hr : m % B = m - B := by rw [Nat.mod_eq_sub_mod hge, Nat.mod_eq_of_lt (by omega)]
      rw [hd, hr, if_neg (by omega), Nat.add_sub_cancel, Nat.add_sub_cancel' hge]
    · rw [Nat.mul_div_cancel_left _ hpos, Nat.mul_mod_right, if_neg (by omega), show k + 2 - 1 = k + 1 by omega]
      ring

/-- Every pattern is a significand at a scale. -/
theorem Format.exists_scale (F : Format) (b : Nat) :
    ∃ k m, b = 2 ^ F.fracBits * k + m ∧ m < 2 ^ F.fracBits * 2 ∧ (k = 0 ∨ 2 ^ F.fracBits ≤ m) := by
  have hb := Nat.div_add_mod b (2 ^ F.fracBits)
  have hr : b % 2 ^ F.fracBits < 2 ^ F.fracBits := Nat.mod_lt _ (Nat.two_pow_pos _)
  generalize 2 ^ F.fracBits = B at *
  cases h : b / B with
  | zero => exact ⟨0, b, by omega, by rw [h] at hb; omega, .inl rfl⟩
  | succ k =>
    rw [h, Nat.mul_succ] at hb
    exact ⟨k, B + b % B, by omega, by omega, .inr (by omega)⟩

theorem Format.value_lt_succ (F : Format) (b : Nat) : F.value b < F.value (b + 1) := by
  obtain ⟨k, m, rfl, hm, hk⟩ := F.exists_scale b
  rw [F.value_add (Nat.le_of_lt hm) hk, Nat.add_assoc, F.value_add hm (by omega)]
  exact Nat.mul_lt_mul_of_pos_left (Nat.lt_succ_self m) (Nat.two_pow_pos k)

theorem Format.value_strictMono (F : Format) : StrictMono F.value := strictMono_nat_of_lt_succ F.value_lt_succ

@[simp] theorem Format.value_zero (F : Format) : F.value 0 = 0 := by simp [Format.value]

/-! ## The nearest pattern -/

/-- How many bits the significand of num/den is shifted up. -/
def Format.scale (F : Format) (num den : Nat) : Nat := Nat.log2 (num / den) - F.fracBits

/-- The pattern nearest to num/den when the exponent has no bound. -/
def Format.nearest (F : Format) (num den : Nat) : Nat :=
  2 ^ F.fracBits * F.scale num den + rneDiv num (2 ^ F.scale num den * den)

/-- Rounding takes the nearest pattern, and infinity for every pattern past the finite ones. -/
theorem Format.roundMag_eq (F : Format) (num den : Nat) : F.roundMag num den = min (F.nearest num den) F.infBits := rfl

variable {F : Format} {num den : Nat}

theorem Format.lt_of_scale (hd : 0 < den) : num < 2 ^ F.scale num den * den * (2 ^ F.fracBits * 2) := by
  have hlt : num / den < 2 ^ (F.scale num den + F.fracBits + 1) :=
    Nat.lt_of_lt_of_le Nat.lt_log2_self (Nat.pow_le_pow_right (by decide) (by unfold Format.scale; omega))
  calc num < 2 ^ (F.scale num den + F.fracBits + 1) * den := (Nat.div_lt_iff_lt_mul hd).mp hlt
    _ = _ := by ring

theorem Format.le_of_scale (hd : 0 < den) (hk : F.scale num den ≠ 0) :
    2 ^ F.scale num den * den * 2 ^ F.fracBits ≤ num := by
  have hne : num / den ≠ 0 := fun h => hk (by simp [Format.scale, h])
  have hlog : F.scale num den + F.fracBits = Nat.log2 (num / den) := by unfold Format.scale at *; omega
  have hle : 2 ^ (F.scale num den + F.fracBits) ≤ num / den := hlog ▸ Nat.log2_self_le hne
  calc 2 ^ F.scale num den * den * 2 ^ F.fracBits = 2 ^ (F.scale num den + F.fracBits) * den := by ring
    _ ≤ num := (Nat.le_div_iff_mul_le hd).mp hle

/-- The value of the nearest pattern is the nearest multiple of the last place's weight. -/
theorem Format.value_nearest (hd : 0 < den) :
    F.value (F.nearest num den) =
      2 ^ F.scale num den * rneDiv num (2 ^ F.scale num den * den) := by
  have hpos : 0 < 2 ^ F.scale num den * den := Nat.mul_pos (Nat.two_pow_pos _) hd
  refine F.value_add (rneDiv_le hpos (Nat.le_of_lt (lt_of_scale hd))) ?_
  rcases Nat.eq_zero_or_pos (F.scale num den) with h0 | h0
  · exact .inl h0
  · exact .inr (le_rneDiv hpos (le_of_scale hd (by omega)))

/-- Every value is a multiple of the last place's weight, or below the least significand of that scale. -/
theorem Format.value_multiple_or_lt (F : Format) (b k : Nat) :
    (∃ j, F.value b = 2 ^ k * j) ∨ (k ≠ 0 ∧ F.value b < 2 ^ k * 2 ^ F.fracBits) := by
  obtain ⟨k', m, rfl, hm, hk'⟩ := F.exists_scale b
  rw [F.value_add (Nat.le_of_lt hm) hk']
  rcases Nat.lt_or_ge k' k with hlt | hge
  · refine .inr ⟨by omega, ?_⟩
    calc 2 ^ k' * m < 2 ^ k' * (2 ^ F.fracBits * 2) := Nat.mul_lt_mul_of_pos_left hm (Nat.two_pow_pos _)
      _ = 2 ^ (k' + 1) * 2 ^ F.fracBits := by ring
      _ ≤ _ := Nat.mul_le_mul_right _ (Nat.pow_le_pow_right (by decide) hlt)
  · exact .inl ⟨2 ^ (k' - k) * m, by rw [← Nat.mul_assoc, ← Nat.pow_add, Nat.add_sub_cancel' hge]⟩

/-- How far a pattern's value lies from num/den, times den. -/
def Format.dist (F : Format) (num den b : Nat) : Nat := ((num : Int) - F.value b * den).natAbs

/-- A value that is the multiple `j` of the weight 2^k is as far off as that multiple of 2^k * den is from num. -/
theorem Format.dist_of_multiple {b k j : Nat} (h : F.value b = 2 ^ k * j) :
    F.dist num den b = ((num : Int) - j * (2 ^ k * den : Nat)).natAbs := by
  unfold Format.dist
  rw [h]
  congr 2
  push_cast
  ring

/-- No pattern is nearer than the nearest one, and one that is as near shows it to be even. -/
theorem Format.nearest_dist_le (hF : 1 ≤ F.fracBits) (hd : 0 < den) (b : Nat) :
    F.dist num den (F.nearest num den) ≤ F.dist num den b ∧
    (F.dist num den (F.nearest num den) = F.dist num den b → b ≠ F.nearest num den →
      F.nearest num den % 2 = 0) := by
  have hpos : 0 < 2 ^ F.scale num den * den := Nat.mul_pos (Nat.two_pow_pos _) hd
  have hval := F.value_nearest (num := num) hd
  have hnear := (rneDiv_nearestEven (n := num) hpos).dist_le hpos
  rw [dist_of_multiple hval]
  rcases F.value_multiple_or_lt b (F.scale num den) with ⟨j, hj⟩ | ⟨hk, hlt⟩
  · rw [dist_of_multiple hj]
    refine ⟨(hnear j).1, fun htie hne => ?_⟩
    have heven := (hnear j).2 htie fun hjm => hne (F.value_strictMono.injective (by rw [hj, hval, hjm]))
    rw [Format.nearest, ← mul_pow_sub_one (Nat.ne_of_gt hF) 2, Nat.mul_assoc, Nat.mul_add_mod, heven]
  · have hle := le_of_scale (F := F) hd hk
    have hmin := (hnear (2 ^ F.fracBits)).1
    have hb : F.value b * den < 2 ^ F.fracBits * (2 ^ F.scale num den * den) := by
      calc F.value b * den < 2 ^ F.scale num den * 2 ^ F.fracBits * den := Nat.mul_lt_mul_of_pos_right hlt hd
        _ = _ := by ring
    have hstrict : ((num : Int) - (2 ^ F.fracBits : Nat) * (2 ^ F.scale num den * den : Nat)).natAbs <
        F.dist num den b := by
      unfold Format.dist
      rw [← Int.natCast_mul, ← Int.natCast_mul]
      rw [Nat.mul_comm] at hle
      omega
    exact ⟨(hmin.trans_lt hstrict).le, fun htie => absurd htie (hmin.trans_lt hstrict).ne⟩

/-- A value that num/den reaches is reached by the nearest pattern. -/
theorem Format.le_nearest (hF : 1 ≤ F.fracBits) (hd : 0 < den) {b : Nat} (h : F.value b * den ≤ num) :
    b ≤ F.nearest num den := by
  by_contra hlt
  have hv : F.value (F.nearest num den) * den < F.value b * den :=
    Nat.mul_lt_mul_of_pos_right (F.value_strictMono (Nat.lt_of_not_le hlt)) hd
  have hnear := (nearest_dist_le hF hd (num := num) b).1
  unfold Format.dist at hnear
  rw [← Int.natCast_mul, ← Int.natCast_mul] at hnear
  omega

/-- The nearest pattern is past an odd one exactly from the midpoint to its successor on. -/
theorem Format.lt_nearest_iff_of_odd (hF : 1 ≤ F.fracBits) (hd : 0 < den) {c : Nat} (hc : c % 2 = 1) :
    c < F.nearest num den ↔ F.value c * den + F.value (c + 1) * den ≤ 2 * num := by
  have hsucc : F.value c * den < F.value (c + 1) * den := Nat.mul_lt_mul_of_pos_right (F.value_lt_succ c) hd
  have hnear := nearest_dist_le hF hd (num := num)
  unfold Format.dist at hnear
  simp only [← Int.natCast_mul] at hnear
  constructor
  · intro hlt
    have hv : F.value (c + 1) * den ≤ F.value (F.nearest num den) * den :=
      Nat.mul_le_mul_right _ (F.value_strictMono.monotone hlt)
    have := (hnear c).1
    omega
  · intro hmid
    by_contra hle
    have hle := Nat.le_of_not_lt hle
    have hv : F.value (F.nearest num den) * den ≤ F.value c * den :=
      Nat.mul_le_mul_right _ (F.value_strictMono.monotone hle)
    obtain ⟨hmin, htie⟩ := hnear (c + 1)
    have heq : F.value (F.nearest num den) * den = F.value c * den := by omega
    have hN : F.nearest num den = c := F.value_strictMono.injective (Nat.eq_of_mul_eq_mul_right hd heq)
    have := htie (by omega) (by omega)
    omega

/-! ## The end of the finite values -/

/-- The pattern of infinity as a carry out of the largest finite exponent. -/
theorem Format.infBits_eq (hE : 2 ≤ F.expBits) :
    F.infBits = 2 ^ F.fracBits * (2 ^ F.expBits - 3) + 2 ^ F.fracBits * 2 := by
  have h4 : 2 ^ 2 ≤ 2 ^ F.expBits := Nat.pow_le_pow_right (by decide) hE
  rw [← Nat.mul_add, Format.infBits, Nat.mul_comm, show 2 ^ F.expBits - 3 + 2 = 2 ^ F.expBits - 1 by omega]

theorem Format.value_infBits (hE : 2 ≤ F.expBits) :
    F.value F.infBits = 2 ^ (2 ^ F.expBits - 3) * (2 ^ F.fracBits * 2) := by
  rw [infBits_eq hE, F.value_add le_rfl (.inr (by omega))]

/-- The largest finite pattern has the largest significand. -/
theorem Format.value_infBits_pred (hE : 2 ≤ F.expBits) :
    F.value (F.infBits - 1) + 2 ^ (2 ^ F.expBits - 3) = F.value F.infBits := by
  have hB : 0 < 2 ^ F.fracBits := Nat.two_pow_pos _
  rw [value_infBits hE, infBits_eq hE, Nat.add_sub_assoc (by omega), F.value_add (by omega) (.inr (by omega)),
    Nat.mul_sub_one, Nat.sub_add_cancel (Nat.le_mul_of_pos_right _ (by omega))]

theorem Format.infBits_pos (hE : 2 ≤ F.expBits) : 0 < F.infBits := by
  rw [infBits_eq hE]
  have : 0 < 2 ^ F.fracBits := Nat.two_pow_pos _
  omega

theorem Format.infBits_lt (F : Format) : F.infBits < 2 ^ (F.expBits + F.fracBits) := by
  rw [Nat.pow_add]
  exact Nat.mul_lt_mul_of_pos_right (Nat.sub_one_lt (Nat.two_pow_pos _).ne') (Nat.two_pow_pos _)

/-- Rounding gives infinity exactly from the midpoint past the largest finite value on. -/
theorem Format.roundMag_eq_infBits_iff (hF : 1 ≤ F.fracBits) (hE : 2 ≤ F.expBits) (hd : 0 < den) :
    F.roundMag num den = F.infBits ↔
      F.value (F.infBits - 1) * den + F.value F.infBits * den ≤ 2 * num := by
  have hpos := infBits_pos hE
  have hodd : (F.infBits - 1) % 2 = 1 := by
    have heven : F.infBits = 2 * (2 ^ (F.fracBits - 1) * (2 ^ F.expBits - 1)) := by
      rw [Format.infBits, ← mul_pow_sub_one (Nat.ne_of_gt hF) 2]
      ring
    omega
  have hlt := lt_nearest_iff_of_odd hF hd (num := num) hodd
  rw [Nat.sub_add_cancel hpos] at hlt
  rw [← hlt, roundMag_eq]
  omega

theorem Format.roundMag_le_infBits (F : Format) (num den : Nat) : F.roundMag num den ≤ F.infBits := Nat.min_le_right ..

/-- A finite result of rounding is the nearest pattern. -/
theorem Format.roundMag_eq_nearest (h : F.roundMag num den < F.infBits) : F.roundMag num den = F.nearest num den := by
  rw [roundMag_eq] at *
  omega

end Sys2Proof.Machine
end

section
/-! PROOFS. What a bit pattern stands for, and the operations on finite operands (spec/00_scope.md R12,
spec/42_engine.md R182). -/

namespace Sys2Proof.Machine

/-! ## Reading a pattern -/

/-- A pattern without its sign bit. -/
def Format.body (F : Format) (b : Nat) : Nat := b % 2 ^ (F.expBits + F.fracBits)

theorem Format.body_div (F : Format) (b : Nat) :
    F.body b / 2 ^ F.fracBits = b / 2 ^ F.fracBits % 2 ^ F.expBits := by
  rw [Format.body, Nat.add_comm, Nat.pow_add, Nat.mod_mul_right_div_self]

theorem Format.body_mod (F : Format) (b : Nat) : F.body b % 2 ^ F.fracBits = b % 2 ^ F.fracBits := by
  rw [Format.body, Nat.add_comm, Nat.pow_add, Nat.mod_mul_right_mod]

theorem Format.body_of_lt {F : Format} {b : Nat} (h : b < 2 ^ (F.expBits + F.fracBits)) : F.body b = b :=
  Nat.mod_eq_of_lt h

theorem Format.sign_of_lt {F : Format} {b : Nat} (h : b < 2 ^ (F.expBits + F.fracBits)) : F.sign b = false :=
  Nat.testBit_lt_two_pow h

/-- The exponent field is all ones from infinity on. -/
theorem Format.exponent_eq_top (F : Format) (b : Nat) :
    b / 2 ^ F.fracBits % 2 ^ F.expBits = 2 ^ F.expBits - 1 ↔ F.infBits ≤ F.body b := by
  have hlt : F.body b / 2 ^ F.fracBits < 2 ^ F.expBits := F.body_div b ▸ Nat.mod_lt _ (Nat.two_pow_pos _)
  rw [← F.body_div, Format.infBits, ← Nat.le_div_iff_mul_le (Nat.two_pow_pos _)]
  omega

/-- With the exponent field all ones the fraction tells infinity from the NaNs. -/
theorem Format.fraction_of_top {F : Format} {b : Nat} (h : F.infBits ≤ F.body b) :
    b % 2 ^ F.fracBits = 0 ↔ F.body b = F.infBits := by
  have hsplit := Nat.div_add_mod (F.body b) (2 ^ F.fracBits)
  rw [F.body_div, (F.exponent_eq_top b).mpr h, F.body_mod, Nat.mul_comm] at hsplit
  rw [← hsplit, Format.infBits]
  omega

/-- The magnitude of a pattern from its exponent and fraction fields. -/
theorem Format.value_body (F : Format) (b : Nat) :
    F.value (F.body b) = if b / 2 ^ F.fracBits % 2 ^ F.expBits = 0 then b % 2 ^ F.fracBits
      else 2 ^ (b / 2 ^ F.fracBits % 2 ^ F.expBits - 1) * (2 ^ F.fracBits + b % 2 ^ F.fracBits) := by
  rw [Format.value, F.body_div, F.body_mod]

/-- What a pattern stands for, by where its body lies. -/
theorem Format.datum_eq (F : Format) (b : Nat) :
    F.datum b = if F.body b < F.infBits then .fin (F.sign b) (F.value (F.body b))
      else if F.body b = F.infBits then .inf (F.sign b) else .nan := by
  have hsign : (b / 2 ^ (F.expBits + F.fracBits) % 2 == 1) = F.sign b := by
    rw [Format.sign, Nat.testBit_eq_decide_div_mod_eq]; rfl
  unfold Format.datum
  dsimp only
  rw [hsign]
  by_cases htop : F.infBits ≤ F.body b
  · rw [if_pos ((F.exponent_eq_top b).mpr htop), if_neg (Nat.not_lt.mpr htop)]
    simp only [fraction_of_top htop]
  · rw [if_neg (mt (F.exponent_eq_top b).mp htop), if_pos (Nat.lt_of_not_le htop), F.value_body]
    split <;> rfl

theorem Format.datum_of_finite {F : Format} {b : Nat} (h : F.Finite b) :
    F.datum b = .fin (F.sign b) (F.value (F.body b)) := by
  have h : F.body b < F.infBits := h
  rw [F.datum_eq, if_pos h]

/-- The exact value of any pattern is its signed magnitude. -/
theorem Format.exact_eq (F : Format) (b : Nat) : F.exact b = signed (F.sign b) (F.value (F.body b)) := by
  rw [Format.exact, F.value_body]; rfl

/-- The exact value of a pattern without a sign bit. -/
theorem Format.exact_of_lt {F : Format} {b : Nat} (h : b < 2 ^ (F.expBits + F.fracBits)) : F.exact b = F.value b := by
  rw [F.exact_eq, sign_of_lt h, body_of_lt h]; rfl

theorem Format.exact_natAbs (F : Format) (b : Nat) : (F.exact b).natAbs = F.value (F.body b) := by
  rw [F.exact_eq, signed_natAbs]

/-! ## Flipping the sign -/

theorem Format.body_neg (F : Format) (b : Nat) : F.body (F.neg b) = F.body b := by
  simp [Format.body, Format.neg, Nat.xor_mod_two_pow]

theorem Format.sign_neg (F : Format) (b : Nat) : F.sign (F.neg b) = !F.sign b := by
  simp [Format.sign, Format.neg, Nat.testBit_xor]

theorem Format.finite_neg {F : Format} {b : Nat} (h : F.Finite b) : F.Finite (F.neg b) :=
  (F.body_neg b).trans_lt h

theorem Format.exact_neg (F : Format) (b : Nat) : F.exact (F.neg b) = -F.exact b := by
  rw [F.exact_eq, F.exact_eq, F.sign_neg, F.body_neg]
  cases F.sign b <;> simp [signed]

/-! ## The operations on finite operands -/

section
variable {F : Format} {a b : Nat} (ha : F.Finite a) (hb : F.Finite b)
include ha hb

theorem Format.add_of_finite (h : F.exact a + F.exact b ≠ 0) :
    F.add a b = F.pack (decide (F.exact a + F.exact b < 0)) (F.roundMag (F.exact a + F.exact b).natAbs 1) := by
  rw [F.exact_eq, F.exact_eq] at *
  simp [Format.add, datum_of_finite ha, datum_of_finite hb, h, Format.round]

theorem Format.sub_of_finite (h : F.exact a - F.exact b ≠ 0) :
    F.sub a b = F.pack (decide (F.exact a - F.exact b < 0)) (F.roundMag (F.exact a - F.exact b).natAbs 1) := by
  rw [sub_eq_add_neg, ← F.exact_neg] at *
  exact add_of_finite ha (finite_neg hb) h

theorem Format.mul_of_finite :
    F.mul a b = F.pack (F.sign a ^^ F.sign b) (F.roundMag (F.exact a * F.exact b).natAbs (2 ^ F.unitExp)) := by
  simp [Format.mul, datum_of_finite ha, datum_of_finite hb, Format.round, Int.natAbs_mul, F.exact_natAbs]

theorem Format.div_of_finite (h : F.exact b ≠ 0) :
    F.div a b = F.pack (F.sign a ^^ F.sign b)
      (F.roundMag (2 ^ F.unitExp * (F.exact a).natAbs) (F.exact b).natAbs) := by
  have h : F.value (F.body b) ≠ 0 := by rwa [← F.exact_natAbs, ne_eq, Int.natAbs_eq_zero]
  simp [Format.div, datum_of_finite ha, datum_of_finite hb, h, Format.round, F.exact_natAbs]

end

theorem unitExp_binary32 : binary32.unitExp = 149 := by decide

theorem unitExp_binary64 : binary64.unitExp = 1074 := by decide

/-- A packed rounded magnitude fits the format's width. -/
theorem Format.pack_roundMag_lt (F : Format) (neg : Bool) (num den : Nat) :
    F.pack neg (F.roundMag num den) < 2 ^ (1 + F.expBits + F.fracBits) := by
  have := F.roundMag_le_infBits num den
  have := F.infBits_lt
  rw [Nat.add_assoc, Nat.pow_add]
  unfold Format.pack
  split <;> omega

@[simp] theorem toNat_ofNat_pack32 (neg : Bool) (num den : Nat) :
    (BitVec.ofNat 32 (binary32.pack neg (binary32.roundMag num den))).toNat =
      binary32.pack neg (binary32.roundMag num den) := by
  exact Nat.mod_eq_of_lt (binary32.pack_roundMag_lt neg num den)

@[simp] theorem toNat_ofNat_pack64 (neg : Bool) (num den : Nat) :
    (BitVec.ofNat 64 (binary64.pack neg (binary64.roundMag num den))).toNat =
      binary64.pack neg (binary64.roundMag num den) := by
  exact Nat.mod_eq_of_lt (binary64.pack_roundMag_lt neg num den)

@[simp] theorem Format.pack_false (F : Format) (b : Nat) : F.pack false b = b := Nat.zero_add b

theorem f32OfRatio_toNat (num den : Nat) : (f32OfRatio num den).toNat = binary32.roundMag (2 ^ 149 * num) den := by
  rw [f32OfRatio, unitExp_binary32, ← binary32.pack_false (binary32.roundMag _ _), toNat_ofNat_pack32]

theorem f64OfNat_toNat (n : Nat) : (f64OfNat n).toNat = binary64.roundMag (2 ^ 1074 * n) 1 := by
  rw [f64OfNat, unitExp_binary64, ← binary64.pack_false (binary64.roundMag _ _), toNat_ofNat_pack64]

theorem f32OfF64_toNat {a : F64} (ha : binary64.Finite a.toNat) :
    (f32OfF64 a).toNat = binary32.pack (binary64.sign a.toNat)
      (binary32.roundMag (2 ^ 149 * (binary64.exact a.toNat).natAbs) (2 ^ 1074)) := by
  simp only [f32OfF64, Format.datum_of_finite ha, Format.exact_natAbs]
  rw [unitExp_binary32, unitExp_binary64, Format.round, toNat_ofNat_pack32]

/-! ## Rounding is to nearest even -/

/-- The three facts of rounding, in a format of at least one fraction bit and two exponent bits. -/
theorem Format.roundMag_nearest {F : Format} {num den : Nat} (hF : 1 ≤ F.fracBits) (hE : 2 ≤ F.expBits)
    (hd : 0 < den) :
    (F.roundMag num den < F.infBits → ∀ b < F.infBits,
      ((num : Int) - F.exact (F.roundMag num den) * den).natAbs ≤ ((num : Int) - F.exact b * den).natAbs ∧
      (((num : Int) - F.exact (F.roundMag num den) * den).natAbs = ((num : Int) - F.exact b * den).natAbs →
        b ≠ F.roundMag num den → F.roundMag num den % 2 = 0)) ∧
    F.roundMag num den ≤ F.infBits ∧
    (F.roundMag num den = F.infBits ↔
      (den : Int) * (2 * F.exact (F.infBits - 1) + 2 ^ (2 ^ F.expBits - 3)) ≤ 2 * num) := by
  have hinf := F.infBits_lt
  refine ⟨fun hfin b hb => ?_, F.roundMag_le_infBits num den, ?_⟩
  · rw [exact_of_lt (hfin.trans hinf), exact_of_lt (hb.trans hinf), roundMag_eq_nearest hfin]
    exact nearest_dist_le hF hd b
  · rw [roundMag_eq_infBits_iff hF hE hd, exact_of_lt ((Nat.sub_le ..).trans_lt hinf), ← value_infBits_pred hE]
    have hmid : (den : Int) * (2 * F.value (F.infBits - 1) + 2 ^ (2 ^ F.expBits - 3)) =
        (F.value (F.infBits - 1) * den + (F.value (F.infBits - 1) + 2 ^ (2 ^ F.expBits - 3)) * den : Nat) := by
      push_cast
      ring
    rw [hmid]
    exact_mod_cast Iff.rfl

/-- Settles O41: a rounded pattern is the nearest multiple of its last place's weight, and each operation on finite
operands rounds the exact result of their magnitudes. -/
theorem roundingIsToNearestEven : Obligations.RoundingIsToNearestEven := by
  refine ⟨?_, fun a b ha hb => ⟨fun h => ?_, fun h => ?_, ?_⟩,
    fun a b ha hb => ⟨f32OfF64_toNat ha, fun h => ?_, fun h => ?_, ?_, fun h => ?_⟩, f32OfRatio_toNat, f64OfNat_toNat⟩
  · rintro F num den (rfl | rfl) hd
    · exact Format.roundMag_nearest (by decide) (by decide) hd
    · exact Format.roundMag_nearest (by decide) (by decide) hd
  · rw [f32Add, Format.add_of_finite ha hb h, toNat_ofNat_pack32]
  · rw [f32Sub, Format.sub_of_finite ha hb h, toNat_ofNat_pack32]
  · rw [f32Mul, Format.mul_of_finite ha hb, unitExp_binary32, toNat_ofNat_pack32]
  · rw [f64Add, Format.add_of_finite ha hb h, toNat_ofNat_pack64]
  · rw [f64Sub, Format.sub_of_finite ha hb h, toNat_ofNat_pack64]
  · rw [f64Mul, Format.mul_of_finite ha hb, unitExp_binary64, toNat_ofNat_pack64]
  · rw [f64Div, Format.div_of_finite ha hb h, unitExp_binary64, toNat_ofNat_pack64]

end Sys2Proof.Machine
end

section
/-! PROOFS. The order of the values of a format is the order of the bit patterns (spec/42_engine.md R182, R189). -/

namespace Sys2Proof.Machine

/-- Where the body of a pattern that is not a NaN lies on the line of magnitudes. -/
def Format.rank (F : Format) (m : Nat) : Nat :=
  if m < F.infBits then F.value m else 2 ^ (2 ^ F.expBits + F.fracBits)

theorem Format.place_eq (F : Format) (b : Nat) :
    F.place b = if F.body b ≤ F.infBits then some (signed (F.sign b) (F.rank (F.body b))) else none := by
  unfold Format.place Format.rank
  rw [F.datum_eq]
  rcases Nat.lt_trichotomy (F.body b) F.infBits with h | h | h
  · simp [h, Nat.le_of_lt h]
  · simp [h]
  · simp [Nat.lt_asymm h, Nat.ne_of_gt h, Nat.not_le.mpr h]

/-- Every finite value lies before the place of infinity. -/
theorem Format.value_lt_place_inf {F : Format} (hE : 2 ≤ F.expBits) {m : Nat} (h : m < F.infBits) :
    F.value m < 2 ^ (2 ^ F.expBits + F.fracBits) := by
  calc F.value m < F.value F.infBits := F.value_strictMono h
    _ = 2 ^ (2 ^ F.expBits - 3 + F.fracBits + 1) := by rw [value_infBits hE, Nat.pow_succ, Nat.pow_add, Nat.mul_assoc]
    _ ≤ _ := Nat.pow_le_pow_right (by decide) (by
      have : 2 ^ 2 ≤ 2 ^ F.expBits := Nat.pow_le_pow_right (by decide) hE
      omega)

theorem Format.rank_lt_rank {F : Format} (hE : 2 ≤ F.expBits) {m n : Nat} (hlt : m < n) (hn : n ≤ F.infBits) :
    F.rank m < F.rank n := by
  unfold Format.rank
  rw [if_pos (hlt.trans_le hn)]
  split
  · exact F.value_strictMono hlt
  · exact value_lt_place_inf hE (hlt.trans_le hn)

theorem Format.rank_le_rank_iff {F : Format} (hE : 2 ≤ F.expBits) {m n : Nat} (hm : m ≤ F.infBits)
    (hn : n ≤ F.infBits) : F.rank m ≤ F.rank n ↔ m ≤ n := by
  constructor
  · exact fun h => Nat.le_of_not_lt fun hlt => Nat.not_lt.mpr h (rank_lt_rank hE hlt hm)
  · intro h
    rcases Nat.lt_or_eq_of_le h with hlt | rfl
    · exact (rank_lt_rank hE hlt hn).le
    · exact le_rfl

theorem Format.rank_eq_zero_iff {F : Format} (hE : 2 ≤ F.expBits) {m : Nat} (hm : m ≤ F.infBits) :
    F.rank m = 0 ↔ m = 0 := by
  have h0 : F.rank 0 = 0 := by simp [Format.rank, infBits_pos hE]
  have := rank_le_rank_iff hE hm (Nat.zero_le F.infBits)
  omega

/-- Signed magnitudes compare as the magnitudes do, both zeros being equal. -/
theorem signed_le_signed_congr {m n m' n' : Nat} (hmn : m ≤ n ↔ m' ≤ n') (hnm : n ≤ m ↔ n' ≤ m') (hm : m = 0 ↔ m' = 0)
    (hn : n = 0 ↔ n' = 0) (s t : Bool) : signed s m ≤ signed t n ↔ signed s m' ≤ signed t n' := by
  cases s <;> cases t <;> simp [signed] <;> omega

/-- The signed places of two patterns compare as their signed bodies. -/
theorem Format.signed_rank_le_iff {F : Format} (hE : 2 ≤ F.expBits) {m n : Nat} (hm : m ≤ F.infBits)
    (hn : n ≤ F.infBits) (s t : Bool) : signed s (F.rank m) ≤ signed t (F.rank n) ↔ signed s m ≤ signed t n :=
  signed_le_signed_congr (rank_le_rank_iff hE hm hn) (rank_le_rank_iff hE hn hm) (rank_eq_zero_iff hE hm)
    (rank_eq_zero_iff hE hn) s t

/-- The comparison of a format, on patterns that are not NaNs, is that of their signed bodies. -/
theorem Format.le_iff {F : Format} (hE : 2 ≤ F.expBits) (a b : Nat) :
    F.le a b = true ↔ F.body a ≤ F.infBits ∧ F.body b ≤ F.infBits ∧
      signed (F.sign a) (F.body a) ≤ signed (F.sign b) (F.body b) := by
  unfold Format.le
  rw [F.place_eq, F.place_eq]
  by_cases ha : F.body a ≤ F.infBits
  · by_cases hb : F.body b ≤ F.infBits
    · simp [ha, hb, signed_rank_le_iff hE ha hb]
    · simp [ha, hb]
  · simp [ha]

theorem Format.lt_iff {F : Format} (hE : 2 ≤ F.expBits) (a b : Nat) :
    F.lt a b = true ↔ F.body a ≤ F.infBits ∧ F.body b ≤ F.infBits ∧
      signed (F.sign a) (F.body a) < signed (F.sign b) (F.body b) := by
  unfold Format.lt
  rw [F.place_eq, F.place_eq]
  by_cases ha : F.body a ≤ F.infBits
  · by_cases hb : F.body b ≤ F.infBits
    · have hlt := not_congr (signed_rank_le_iff hE hb ha (F.sign b) (F.sign a))
      rw [not_le, not_le] at hlt
      simp [ha, hb, hlt]
    · simp [ha, hb]
  · simp [ha]

theorem Format.isFinite_iff (F : Format) (b : Nat) : F.isFinite b = true ↔ F.Finite b := by
  show _ ↔ F.body b < F.infBits
  unfold Format.isFinite
  rw [F.datum_eq]
  rcases Nat.lt_trichotomy (F.body b) F.infBits with h | h | h
  · simp [h]
  · simp [h]
  · simp [Nat.lt_asymm h, Nat.ne_of_gt h]

/-! ## binary64 -/

theorem F64.key_eq (a : F64) : F64.key a = signed (binary64.sign a.toNat) (binary64.body a.toNat) := by
  have h := a.isLt
  rw [show binary64.sign a.toNat = decide (2 ^ 63 ≤ a.toNat) by
    rw [Format.sign, Nat.testBit_eq_decide_div_mod_eq, show binary64.expBits + binary64.fracBits = 63 from rfl]
    congr 1
    simp only [eq_iff_iff]
    omega]
  unfold F64.key signed Format.body
  rw [show binary64.expBits + binary64.fracBits = 63 from rfl]
  by_cases hlt : a.toNat < 2 ^ 63
  · rw [if_pos hlt, decide_eq_false (by omega)]
    simp only [Bool.false_eq_true, if_false]
    omega
  · rw [if_neg hlt, decide_eq_true (by omega), if_pos rfl]
    omega

theorem f64Le_iff (a b : F64) : f64Le a b = true ↔ ¬ F64.IsNaN a ∧ ¬ F64.IsNaN b ∧ F64.key a ≤ F64.key b := by
  rw [F64.key_eq, F64.key_eq, F64.IsNaN, F64.IsNaN, not_lt, not_lt]
  exact Format.le_iff (by decide) a.toNat b.toNat

theorem f64Lt_iff (a b : F64) : f64Lt a b = true ↔ ¬ F64.IsNaN a ∧ ¬ F64.IsNaN b ∧ F64.key a < F64.key b := by
  rw [F64.key_eq, F64.key_eq, F64.IsNaN, F64.IsNaN, not_lt, not_lt]
  exact Format.lt_iff (by decide) a.toNat b.toNat

theorem f64Finite_iff (a : F64) : f64Finite a = true ↔ a.toNat % 2 ^ 63 < 0x7FF0000000000000 :=
  binary64.isFinite_iff a.toNat

/-- The bounds check, read off the bit patterns: patterns without a sign bit are in the order of their values. -/
theorem boundsOk_iff (a b : F64) :
    boundsOk a b = true ↔ 0 < a.toNat ∧ a.toNat ≤ b.toNat ∧ b.toNat < 0x7FF0000000000000 := by
  have ha := a.isLt
  have hb := b.isLt
  simp only [boundsOk, Bool.and_eq_true, f64Finite_iff, f64Lt_iff, f64Le_iff, F64.IsNaN, F64.key]
  rw [show (0#64 : F64).toNat = 0 from rfl]
  constructor
  · rintro ⟨⟨⟨⟨ha', hb'⟩, -, -, ha0⟩, -, -, hb0⟩, -, -, hab⟩
    simp only [Nat.reducePow, Nat.ofNat_pos, if_true] at *
    split at ha0 <;> split at hb0 <;> omega
  · rintro ⟨h0, hab, hinf⟩
    have ha' : a.toNat < 2 ^ 63 := by omega
    have hb' : b.toNat < 2 ^ 63 := by omega
    simp only [if_pos ha', if_pos hb', Nat.mod_eq_of_lt ha', Nat.mod_eq_of_lt hb']
    refine ⟨⟨⟨⟨?_, ?_⟩, ?_, ?_, ?_⟩, ?_, ?_, ?_⟩, ?_, ?_, ?_⟩ <;> norm_num <;> omega

/-- Settles O20: a pattern's place on the line of values rises with its body. -/
theorem binary64OrderByBits : Obligations.Binary64OrderByBits :=
  fun a b => ⟨f64Le_iff a b, f64Lt_iff a b, boundsOk_iff a b⟩

end Sys2Proof.Machine
end

section
/-! PROOFS. Bounds on rounded results: which integers a rounded result reaches, and how far it lies below the exact one
(spec/00_scope.md R12). -/

namespace Sys2Proof.Machine

variable {F : Format} {num den : Nat}

/-- A significand at a scale 2^k is not shifted up by more than k bits. -/
theorem Format.scale_le {k m : Nat} (hm : m < 2 ^ F.fracBits * 2) : F.scale (2 ^ k * m) 1 ≤ k := by
  have hlog : Nat.log2 (2 ^ k * m) < k + F.fracBits + 1 := by
    rcases Nat.eq_zero_or_pos (2 ^ k * m) with h0 | h0
    · simp [h0]
    · rw [Nat.log2_lt h0.ne']
      calc 2 ^ k * m < 2 ^ k * (2 ^ F.fracBits * 2) := Nat.mul_lt_mul_of_pos_left hm (Nat.two_pow_pos k)
        _ = 2 ^ (k + F.fracBits + 1) := by ring
  rw [Format.scale, Nat.div_one]
  omega

/-- A number that fits the significand is the value of a pattern, its nearest one. -/
theorem Format.value_nearest_of_fits {k m : Nat} (hm : m < 2 ^ F.fracBits * 2) :
    F.value (F.nearest (2 ^ k * m) 1) = 2 ^ k * m := by
  have hpos : 0 < 2 ^ F.scale (2 ^ k * m) 1 * 1 := Nat.mul_pos (Nat.two_pow_pos _) Nat.one_pos
  obtain ⟨j, hj⟩ : 2 ^ F.scale (2 ^ k * m) 1 * 1 ∣ 2 ^ k * m := by
    rw [Nat.mul_one]
    exact (Nat.pow_dvd_pow 2 (scale_le hm)).mul_right m
  have hq : rneDiv (2 ^ k * m) (2 ^ F.scale (2 ^ k * m) 1 * 1) = j :=
    Nat.le_antisymm (rneDiv_le hpos hj.le) (le_rneDiv hpos hj.ge)
  rw [value_nearest Nat.one_pos, hq]
  rwa [Nat.mul_one, eq_comm] at hj

/-- A rounded result reaches every pattern whose value the exact one reaches. -/
theorem Format.le_roundMag (hF : 1 ≤ F.fracBits) (hd : 0 < den) {b : Nat} (hb : b ≤ F.infBits)
    (h : F.value b * den ≤ num) : b ≤ F.roundMag num den :=
  Nat.le_min.mpr ⟨le_nearest hF hd h, hb⟩

/-- A finite rounded result reaches every number that fits the significand and that the exact one reaches. -/
theorem Format.le_value_roundMag (hF : 1 ≤ F.fracBits) (hd : 0 < den) (hfin : F.roundMag num den < F.infBits)
    {k m : Nat} (hm : m < 2 ^ F.fracBits * 2) (h : 2 ^ k * m * den ≤ num) :
    2 ^ k * m ≤ F.value (F.roundMag num den) := by
  rw [roundMag_eq_nearest hfin]
  calc 2 ^ k * m = F.value (F.nearest (2 ^ k * m) 1) := (value_nearest_of_fits hm).symm
    _ ≤ _ := F.value_strictMono.monotone (le_nearest hF hd (by rwa [value_nearest_of_fits hm]))

/-- A finite rounded result lies below the exact one by at most half a last place: of the exact one's significand, or
of the least subnormal. -/
theorem Format.le_value_roundMag_add (hd : 0 < den) (hfin : F.roundMag num den < F.infBits) :
    2 ^ F.fracBits * 2 * num ≤
      2 ^ F.fracBits * 2 * (F.value (F.roundMag num den) * den) + num + 2 ^ F.fracBits * den := by
  rw [roundMag_eq_nearest hfin, value_nearest hd]
  obtain ⟨hup, -⟩ := rneDiv_nearestEven (n := num) (Nat.mul_pos (Nat.two_pow_pos (F.scale num den)) hd)
  have hulp : 2 ^ F.scale num den * den * 2 ^ F.fracBits ≤ num + 2 ^ F.fracBits * den := by
    by_cases hk : F.scale num den = 0
    · rw [hk, Nat.pow_zero, Nat.one_mul, Nat.mul_comm]
      exact Nat.le_add_left ..
    · exact (le_of_scale hd hk).trans (Nat.le_add_right ..)
  generalize 2 ^ F.scale num den = w, rneDiv num (2 ^ F.scale num den * den) = m at *
  have hup := Nat.mul_le_mul_left (2 ^ F.fracBits) hup
  have e1 : 2 ^ F.fracBits * (2 * num) = 2 ^ F.fracBits * 2 * num := by ring
  have e2 : 2 ^ F.fracBits * ((2 * m + 1) * (w * den)) =
    2 ^ F.fracBits * 2 * (w * m * den) + w * den * 2 ^ F.fracBits := by ring
  omega

/-- A rounded result, or infinity where an operand is infinite. -/
theorem Format.ite_roundMag_le_infBits (F : Format) (num den : Nat) (P : Prop) [Decidable P] :
    (if P then F.roundMag num den else F.infBits) ≤ F.infBits := by
  split
  · exact F.roundMag_le_infBits num den
  · exact le_rfl

theorem Format.roundMag_zero (F : Format) : F.roundMag 0 1 = 0 := by
  simp [Format.roundMag, rneDiv]

/-! ## The operations on patterns without a sign -/

theorem Format.datum_of_lt {b : Nat} (h : b < F.infBits) : F.datum b = .fin false (F.value b) := by
  have hlt := h.trans F.infBits_lt
  rw [F.datum_eq, body_of_lt hlt, sign_of_lt hlt, if_pos h]

theorem Format.datum_infBits (F : Format) : F.datum F.infBits = .inf false := by
  rw [F.datum_eq, body_of_lt F.infBits_lt, sign_of_lt F.infBits_lt, if_neg (Nat.lt_irrefl _), if_pos rfl]

section
variable {a b : Nat} (ha : a ≤ F.infBits) (hb : b ≤ F.infBits)
include ha hb

/-- The sum of two patterns without a sign is finite only when both are. -/
theorem Format.add_of_le :
    F.add a b = if a < F.infBits ∧ b < F.infBits then F.roundMag (F.value a + F.value b) 1 else F.infBits := by
  rcases ha.lt_or_eq with ha | rfl
  · rcases hb.lt_or_eq with hb | rfl
    · rw [if_pos ⟨ha, hb⟩]
      simp only [Format.add, datum_of_lt ha, datum_of_lt hb, signed, Bool.false_eq_true, if_false, Format.round]
      split
      · next h =>
        rw [show F.value a + F.value b = 0 by omega, F.roundMag_zero]
        rfl
      · next h =>
        rw [decide_eq_false (by omega), F.pack_false, ← Int.natCast_add, Int.natAbs_natCast]
    · simp [Format.add, datum_of_lt ha, F.datum_infBits]
  · rcases hb.lt_or_eq with hb | rfl
    · simp [Format.add, datum_of_lt hb, F.datum_infBits]
    · simp [Format.add, F.datum_infBits]

/-- The product of two positive patterns is finite only when both are. -/
theorem Format.mul_of_le (ha0 : 0 < a) (hb0 : 0 < b) :
    F.mul a b = if a < F.infBits ∧ b < F.infBits then F.roundMag (F.value a * F.value b) (2 ^ F.unitExp)
      else F.infBits := by
  have hva : F.value a ≠ 0 := (F.value_zero ▸ F.value_strictMono ha0).ne'
  have hvb : F.value b ≠ 0 := (F.value_zero ▸ F.value_strictMono hb0).ne'
  rcases ha.lt_or_eq with ha | rfl
  · rcases hb.lt_or_eq with hb | rfl
    · simp [Format.mul, datum_of_lt ha, datum_of_lt hb, Format.round, ha, hb]
    · simp [Format.mul, datum_of_lt ha, F.datum_infBits, hva]
  · rcases hb.lt_or_eq with hb | rfl
    · simp [Format.mul, datum_of_lt hb, F.datum_infBits, hvb]
    · simp [Format.mul, F.datum_infBits]

omit hb in
/-- The quotient of a pattern without a sign by a positive finite one. -/
theorem Format.div_of_le (hb0 : 0 < b) (hb : b < F.infBits) :
    F.div a b = if a < F.infBits then F.roundMag (2 ^ F.unitExp * F.value a) (F.value b) else F.infBits := by
  have hvb : F.value b ≠ 0 := (F.value_zero ▸ F.value_strictMono hb0).ne'
  rcases ha.lt_or_eq with ha | rfl
  · simp [Format.div, datum_of_lt ha, datum_of_lt hb, Format.round, ha, hvb]
  · simp [Format.div, datum_of_lt hb, F.datum_infBits]

end
end Sys2Proof.Machine
end

section
/-! PROOFS. binary64 patterns without a sign and the rounded results of CONFIG's arithmetic on them
(spec/00_scope.md R12, spec/42_engine.md R181). -/

namespace Sys2Proof.Machine

/-- No sign bit and no NaN: zero, a positive number or +infinity. -/
abbrev F64.Unsigned (a : F64) : Prop := a.toNat ≤ binary64.infBits

/-- Zero or a positive finite number. -/
abbrev F64.Proper (a : F64) : Prop := a.toNat < binary64.infBits

/-- The magnitude of an unsigned pattern in units of the least subnormal, of which `factorDen` are 1.0. -/
def F64.units (a : F64) : Nat := binary64.value a.toNat

/-- `c` is the finite result of rounding num/den units. -/
structure F64.RoundsTo (c : F64) (num den : Nat) : Prop where
  den_pos : 0 < den
  proper : F64.Proper c
  toNat_eq : c.toNat = binary64.roundMag num den

theorem factorDen_pos : 0 < factorDen := Nat.two_pow_pos _

theorem F64.units_pos_iff (a : F64) : 0 < F64.units a ↔ 0 < a.toNat := by
  have h := binary64.value_strictMono.lt_iff_lt (a := 0) (b := a.toNat)
  rwa [binary64.value_zero] at h

theorem F64.units_le_units_iff (a b : F64) : F64.units a ≤ F64.units b ↔ a.toNat ≤ b.toNat :=
  binary64.value_strictMono.le_iff_le

theorem F64.units_lt_units_iff (a b : F64) : F64.units a < F64.units b ↔ a.toNat < b.toNat :=
  binary64.value_strictMono.lt_iff_lt

/-! ## What a rounded result reaches -/

section
variable {c : F64} {num den : Nat}

theorem F64.RoundsTo.units_eq (h : F64.RoundsTo c num den) :
    F64.units c = binary64.value (binary64.roundMag num den) := by
  rw [F64.units, h.toNat_eq]

theorem F64.RoundsTo.finite (h : F64.RoundsTo c num den) : binary64.roundMag num den < binary64.infBits :=
  h.toNat_eq ▸ h.proper

/-- It reaches every integer of 53 bits that the exact result reaches. -/
theorem F64.RoundsTo.reach (h : F64.RoundsTo c num den) {m : Nat} (hm : m < 2 ^ 53) (hle : factorDen * m * den ≤ num) :
    factorDen * m ≤ F64.units c :=
  h.units_eq ▸ Format.le_value_roundMag (by decide) h.den_pos h.finite hm hle

/-- It reaches every pattern that the exact result reaches. -/
theorem F64.RoundsTo.reach_units (h : F64.RoundsTo c num den) {b : F64} (hb : F64.Proper b)
    (hle : F64.units b * den ≤ num) : F64.units b ≤ F64.units c := by
  rw [F64.units_le_units_iff, h.toNat_eq]
  exact Format.le_roundMag (by decide) h.den_pos hb.le hle

/-- It lies below the exact result by at most half a last place. -/
theorem F64.RoundsTo.error (h : F64.RoundsTo c num den) :
    2 ^ 53 * num ≤ 2 ^ 53 * (F64.units c * den) + num + 2 ^ 52 * den :=
  h.units_eq ▸ Format.le_value_roundMag_add h.den_pos h.finite

end

/-! ## The operations -/

theorem infBits_lt_word : binary64.infBits < 2 ^ 64 := by decide

/-- A pattern without a sign is a word's content. -/
theorem toNat_ofNat_of_unsigned {n : Nat} (h : n ≤ binary64.infBits) : (BitVec.ofNat 64 n).toNat = n :=
  Nat.mod_eq_of_lt (h.trans_lt infBits_lt_word)

section
variable {a b : F64} (ha : F64.Unsigned a) (hb : F64.Unsigned b)
include ha hb

theorem f64Add_toNat : (f64Add a b).toNat =
    if F64.Proper a ∧ F64.Proper b then binary64.roundMag (F64.units a + F64.units b) 1 else binary64.infBits := by
  rw [f64Add, Format.add_of_le ha hb, toNat_ofNat_of_unsigned]
  · rfl
  · exact Format.ite_roundMag_le_infBits ..

theorem f64Add_unsigned : F64.Unsigned (f64Add a b) := by
  rw [F64.Unsigned, f64Add_toNat ha hb]
  exact Format.ite_roundMag_le_infBits ..

/-- A finite sum has finite operands, and rounds the exact sum. -/
theorem f64Add_roundsTo (h : F64.Proper (f64Add a b)) :
    F64.Proper a ∧ F64.Proper b ∧ F64.RoundsTo (f64Add a b) (F64.units a + F64.units b) 1 := by
  have heq := f64Add_toNat ha hb
  split at heq
  · next hab => exact ⟨hab.1, hab.2, Nat.one_pos, h, heq⟩
  · exact absurd heq h.ne

theorem f64Mul_toNat (ha0 : 0 < a.toNat) (hb0 : 0 < b.toNat) : (f64Mul a b).toNat =
    if F64.Proper a ∧ F64.Proper b then binary64.roundMag (F64.units a * F64.units b) factorDen
    else binary64.infBits := by
  rw [f64Mul, Format.mul_of_le ha hb ha0 hb0, toNat_ofNat_of_unsigned]
  · rfl
  · exact Format.ite_roundMag_le_infBits ..

theorem f64Mul_unsigned (ha0 : 0 < a.toNat) (hb0 : 0 < b.toNat) : F64.Unsigned (f64Mul a b) := by
  rw [F64.Unsigned, f64Mul_toNat ha hb ha0 hb0]
  exact Format.ite_roundMag_le_infBits ..

/-- A finite product of positive operands has finite operands, and rounds the exact product. -/
theorem f64Mul_roundsTo (ha0 : 0 < a.toNat) (hb0 : 0 < b.toNat) (h : F64.Proper (f64Mul a b)) :
    F64.Proper a ∧ F64.Proper b ∧ F64.RoundsTo (f64Mul a b) (F64.units a * F64.units b) factorDen := by
  have heq := f64Mul_toNat ha hb ha0 hb0
  split at heq
  · next hab => exact ⟨hab.1, hab.2, factorDen_pos, h, heq⟩
  · exact absurd heq h.ne

omit hb in
theorem f64Div_toNat (hb0 : 0 < b.toNat) (hb : F64.Proper b) : (f64Div a b).toNat =
    if F64.Proper a then binary64.roundMag (factorDen * F64.units a) (F64.units b) else binary64.infBits := by
  rw [f64Div, Format.div_of_le ha hb0 hb, toNat_ofNat_of_unsigned]
  · rfl
  · exact Format.ite_roundMag_le_infBits ..

omit hb in
theorem f64Div_unsigned (hb0 : 0 < b.toNat) (hb : F64.Proper b) : F64.Unsigned (f64Div a b) := by
  rw [F64.Unsigned, f64Div_toNat ha hb0 hb]
  exact Format.ite_roundMag_le_infBits ..

omit hb in
/-- A finite quotient by a positive finite divisor has a finite dividend, and rounds the exact quotient. -/
theorem f64Div_roundsTo (hb0 : 0 < b.toNat) (hb : F64.Proper b) (h : F64.Proper (f64Div a b)) :
    F64.Proper a ∧ F64.RoundsTo (f64Div a b) (factorDen * F64.units a) (F64.units b) := by
  have heq := f64Div_toNat ha hb0 hb
  split at heq
  · next ha => exact ⟨ha, (F64.units_pos_iff b).mpr hb0, h, heq⟩
  · exact absurd heq h.ne

theorem f64Lt_iff_of_unsigned : f64Lt a b = true ↔ a.toNat < b.toNat := by
  have key : ∀ c : F64, F64.Unsigned c → F64.key c = c.toNat := fun c hc =>
    if_pos (hc.trans_lt binary64.infBits_lt)
  have proper : ∀ c : F64, F64.Unsigned c → ¬ F64.IsNaN c := fun c hc =>
    Nat.not_lt.mpr ((Nat.mod_le ..).trans hc)
  rw [f64Lt_iff, key a ha, key b hb, Int.ofNat_lt]
  exact ⟨fun h => h.2.2, fun h => ⟨proper a ha, proper b hb, h⟩⟩

theorem f64Max_toNat : (f64Max a b).toNat = max a.toNat b.toNat := by
  unfold f64Max
  split
  · next h => exact (Nat.max_eq_right ((f64Lt_iff_of_unsigned ha hb).mp h).le).symm
  · next h => exact (Nat.max_eq_left (Nat.le_of_not_lt (mt (f64Lt_iff_of_unsigned ha hb).mpr h))).symm

end

/-! ## Integers as binary64 -/

theorem f64OfNat_toNat_eq (n : Nat) : (f64OfNat n).toNat = binary64.roundMag (factorDen * n) 1 :=
  toNat_ofNat_of_unsigned (Format.roundMag_le_infBits ..)

theorem f64OfNat_unsigned (n : Nat) : F64.Unsigned (f64OfNat n) :=
  (f64OfNat_toNat_eq n).trans_le (Format.roundMag_le_infBits ..)

theorem f64OfNat_roundsTo {n : Nat} (h : F64.Proper (f64OfNat n)) : F64.RoundsTo (f64OfNat n) (factorDen * n) 1 :=
  ⟨Nat.one_pos, h, f64OfNat_toNat_eq n⟩

/-- A number that fits the significand converts exactly. -/
theorem f64OfNat_exact {n : Nat} (hn : n < 2 ^ 53) :
    F64.Proper (f64OfNat n) ∧ F64.units (f64OfNat n) = factorDen * n := by
  have hval : binary64.value (binary64.nearest (factorDen * n) 1) = factorDen * n := Format.value_nearest_of_fits hn
  have hlt : binary64.nearest (factorDen * n) 1 < binary64.infBits := by
    rw [← binary64.value_strictMono.lt_iff_lt, hval, Format.value_infBits (by decide)]
    calc factorDen * n < factorDen * 2 ^ 53 := Nat.mul_lt_mul_of_pos_left hn factorDen_pos
      _ ≤ _ := Nat.mul_le_mul_right _ (Nat.pow_le_pow_right (by decide) (by decide))
  have heq : (f64OfNat n).toNat = binary64.nearest (factorDen * n) 1 :=
    (f64OfNat_toNat_eq n).trans (Nat.min_eq_left hlt.le)
  exact ⟨heq.trans_lt hlt, by rw [F64.units, heq, hval]⟩

theorem f64OfNat_pos {n : Nat} (hn : 0 < n) : 0 < (f64OfNat n).toNat := by
  rcases (f64OfNat_unsigned n).lt_or_eq with h | h
  · rw [← F64.units_pos_iff]
    exact (Nat.mul_pos factorDen_pos Nat.one_pos).trans_le
      ((f64OfNat_roundsTo h).reach (m := 1) (by decide) (by
        rw [Nat.mul_one, Nat.mul_one]; exact Nat.le_mul_of_pos_right _ hn))
  · rw [h]; decide

theorem f64One_eq : F64.one = f64OfNat 1 := by decide +kernel

theorem f64Two_eq : f64Two = f64OfNat 2 := by decide +kernel

/-- floor of a finite value is the integer part of its units. -/
theorem f64Floor_eq {a : F64} (h : F64.Proper a) : f64Floor a = F64.units a / factorDen := by
  rw [f64Floor, Format.mag, Format.datum_of_lt h]
  rfl

theorem factorNum_eq {a : F64} (h : F64.Proper a) : factorNum a = F64.units a := by
  rw [factorNum, Format.mag, Format.datum_of_lt h]
  rfl

end Sys2Proof.Machine
end

section
/-! PROOFS. The buffer sizes of CONFIG reach at the two bounds of the factor (spec/42_engine.md R181, R184, R216,
R218). -/

namespace Sys2Proof.Machine

/-! ## Numbers: from the errors of rounding to the reach of the sizes -/

/-- The errors of `xo` in exact terms: `r` is the rounded 1/a, `m` its maximum with 1.0, `h` the half length, `p` their
rounded product and `x` the integer above it, all but `x` in units of 1/U. -/
theorem xoff_mul_factor_ge {U A r m h p x H : Nat} (hU : 2 ^ 60 ≤ U) (hA : A ≤ U) (hr : r ≤ m) (hh : U * H ≤ h)
    (hp : p < U * x) (er : 2 ^ 53 * (U * U) ≤ 2 ^ 53 * (r * A) + U * U + 2 ^ 52 * A)
    (ep : 2 ^ 53 * (h * m) ≤ 2 ^ 53 * (p * U) + h * m + 2 ^ 52 * U) :
    (2 ^ 51 - 1) * (H * U) ≤ 2 ^ 51 * (x * A) := by
  have hxU : p * U + U ≤ x * U * U := by
    calc p * U + U = (p + 1) * U := by ring
      _ ≤ U * x * U := Nat.mul_le_mul_right _ hp
      _ = _ := by ring
  have hhm : H * m * U ≤ h * m := by
    calc H * m * U = U * H * m := by ring
      _ ≤ _ := Nat.mul_le_mul_right _ hh
  have product : (2 ^ 53 - 1) * (H * m) ≤ 2 ^ 53 * (x * U) := by
    refine Nat.le_of_mul_le_mul_right (c := U) ?_ (by omega)
    rw [Nat.mul_assoc, Nat.mul_assoc (2 ^ 53)]
    omega
  have hrA : r * A ≤ m * A := Nat.mul_le_mul_right _ hr
  have hsmall : 2 ^ 52 * A ≤ U * U := Nat.mul_le_mul (by omega) hA
  have quotient : (2 ^ 53 - 2) * (U * U) ≤ 2 ^ 53 * (m * A) := by omega
  have chain : (2 ^ 53 - 1) * (2 ^ 53 - 2) * (H * U) ≤ 2 ^ 106 * (x * A) := by
    refine Nat.le_of_mul_le_mul_right (c := U) ?_ (by omega)
    calc (2 ^ 53 - 1) * (2 ^ 53 - 2) * (H * U) * U = (2 ^ 53 - 1) * H * ((2 ^ 53 - 2) * (U * U)) := by ring
      _ ≤ (2 ^ 53 - 1) * H * (2 ^ 53 * (m * A)) := Nat.mul_le_mul_left _ quotient
      _ = 2 ^ 53 * A * ((2 ^ 53 - 1) * (H * m)) := by ring
      _ ≤ 2 ^ 53 * A * (2 ^ 53 * (x * U)) := Nat.mul_le_mul_left _ product
      _ = _ := by ring
  omega

theorem wing_le_tableSteps {U A x H npc dh nwing : Nat} (hU : 0 < U) (hnpc : 0 < npc) (hH : H < x) (hx : x < 2 ^ 31)
    (hwing : nwing ≤ npc * (H - 1)) (hxA : (2 ^ 51 - 1) * (H * U) ≤ 2 ^ 51 * (x * A))
    (hdh : 2 * (2 ^ 32 * npc * A) ≤ (2 * dh + 1) * U) : 2 ^ 32 * nwing ≤ x * dh := by
  have steps : 2 ^ 33 * (2 ^ 51 - 1) * (npc * H) ≤ 2 ^ 51 * (2 * (x * dh) + x) := by
    refine Nat.le_of_mul_le_mul_right (c := U) ?_ hU
    calc 2 ^ 33 * (2 ^ 51 - 1) * (npc * H) * U = 2 ^ 33 * npc * ((2 ^ 51 - 1) * (H * U)) := by ring
      _ ≤ 2 ^ 33 * npc * (2 ^ 51 * (x * A)) := Nat.mul_le_mul_left _ hxA
      _ = 2 ^ 51 * x * (2 * (2 ^ 32 * npc * A)) := by ring
      _ ≤ 2 ^ 51 * x * ((2 * dh + 1) * U) := Nat.mul_le_mul_left _ hdh
      _ = _ := by ring
  have hH31 : npc * H ≤ npc * 2 ^ 31 := Nat.mul_le_mul_left _ (by omega)
  rw [Nat.mul_sub_one] at hwing
  omega

theorem pass_le_timeSteps {U B X q y xoff dt : Nat} (hB : 0 < B) (hX : X < 2 ^ 31) (hxoff : 1 ≤ xoff)
    (hU : 2 ^ 60 ≤ U) (hy : q + U < U * y) (hylt : y < 2 ^ 32) (eq : 2 ^ 53 * (X * B) ≤ 2 ^ 53 * q + X * B + 2 ^ 52)
    (hdt : 2 * (2 ^ 32 * U) ≤ (2 * dt + 1) * B) : 2 ^ 32 * (X - xoff) ≤ y * dt := by
  have hyB : y * B ≤ 2 ^ 32 * B := Nat.mul_le_mul_right _ hylt.le
  have hXB : X * B ≤ 2 ^ 31 * B := Nat.mul_le_mul_right _ hX.le
  have hxB : B ≤ xoff * B := Nat.le_mul_of_pos_left _ hxoff
  have steps : 2 ^ 33 * (U * y) ≤ 2 * (y * dt * B) + y * B := by
    calc 2 ^ 33 * (U * y) = 2 * (2 ^ 32 * U) * y := by ring
      _ ≤ (2 * dt + 1) * B * y := Nat.mul_le_mul_right _ hdt
      _ = _ := by ring
  refine Nat.le_of_mul_le_mul_right (c := B) ?_ hB
  rw [Nat.mul_assoc, Nat.sub_mul]
  omega

/-! ## The parameters, and what `sizesFor` answers -/

/-- The constraints of 00_scope.md R8 that sizing uses. -/
theorem Params.sized_parts {p : Params} (h : p.sized = true) :
    (∀ q, p.tierSized q = true) ∧ 1 ≤ p.xoffPad ∧ f64Le f64Two p.ysizePad = true ∧
      p.xCap ≤ 2 ^ 31 - 1 ∧ p.yCap ≤ 2 ^ 32 - 1 := by
  unfold Params.sized at h
  simp only [Bool.and_eq_true, decide_eq_true_eq] at h
  obtain ⟨⟨⟨⟨⟨⟨⟨⟨⟨-, -⟩, hfast⟩, hhigh⟩, hxoff⟩, -⟩, -⟩, hy⟩, hxcap⟩, hycap⟩ := h
  exact ⟨fun q => by cases q <;> assumption, hxoff, hy, hxcap, hycap⟩

/-- The half length of a tier's filter is a whole number, and the wing ends before its last tap. -/
theorem Params.halfLength {p : Params} {q : Quality} (h : p.tierSized q = true) :
    ∃ H, 1 + p.nmult q = 2 * H ∧ p.nwing q ≤ p.npc * (H - 1) := by
  unfold Params.tierSized at h
  simp only [Bool.and_eq_true, decide_eq_true_eq] at h
  obtain ⟨⟨⟨hodd, hmin⟩, -⟩, hwing⟩ := h
  refine ⟨(1 + p.nmult q) / 2, by omega, ?_⟩
  rw [show p.nmult q - 1 = 2 * ((1 + p.nmult q) / 2 - 1) by omega, Nat.mul_left_comm] at hwing
  exact Nat.le_of_mul_le_mul_left hwing (by decide)

/-- What sizes that fit are. -/
theorem sizesFor_eq_some {p : Params} {q : Quality} {a b : F64} {z : Sizes} (h : sizesFor p q a b = some z) :
    f64Lt (xoffReal p q a) (f64OfNat p.xCap) = true ∧ z.xoff = f64Floor (xoffReal p q a) ∧
    z.xsize = max (2 * z.xoff + p.xsizePad) p.xsizeMin ∧ z.xsize + z.xoff ≤ p.xCap ∧
    f64Lt (ysizeReal p z.xsize b) (f64Add (f64OfNat p.yCap) F64.one) = true ∧
    z.ysize = f64Floor (ysizeReal p z.xsize b) := by
  unfold sizesFor at h
  dsimp only at h
  split at h
  · simp at h
  · next hx =>
    split at h
    · simp at h
    · next hfit =>
      split at h
      · simp at h
      · next hy =>
        obtain rfl := Option.some.inj h
        exact ⟨by simpa using hx, rfl, rfl, by simpa using hfit, by simpa using hy, rfl⟩

/-! ## Sums and comparisons with integers -/

/-- Adding 1.0 to an integer is exact. -/
theorem f64Add_one {n : Nat} (hn : n < 2 ^ 52) : f64Add (f64OfNat n) F64.one = f64OfNat (n + 1) := by
  obtain ⟨hn', hun⟩ := f64OfNat_exact (n := n) (by omega)
  obtain ⟨h1, hu1⟩ := f64OfNat_exact (n := 1) (by decide)
  refine BitVec.eq_of_toNat_eq ?_
  rw [f64One_eq, f64Add_toNat hn'.le h1.le, if_pos ⟨hn', h1⟩, hun, hu1, ← Nat.mul_add, f64OfNat_toNat_eq]

/-- An unsigned value below an integer of 32 bits is finite, and its floor is below it too. -/
theorem floor_lt_of_f64Lt {c : F64} {n : Nat} (hc : F64.Unsigned c) (hn : n ≤ 2 ^ 32)
    (h : f64Lt c (f64OfNat n) = true) :
    F64.Proper c ∧ F64.units c < factorDen * 2 ^ 32 ∧ f64Floor c < n := by
  obtain ⟨hprop, hunits⟩ := f64OfNat_exact (n := n) (by omega)
  have hlt := (f64Lt_iff_of_unsigned hc hprop.le).mp h
  have hcu : F64.units c < factorDen * n := hunits ▸ (F64.units_lt_units_iff ..).mpr hlt
  refine ⟨hlt.trans hprop, hcu.trans_le (Nat.mul_le_mul_left _ hn), ?_⟩
  rw [f64Floor_eq (hlt.trans hprop)]
  exact (Nat.div_lt_iff_lt_mul factorDen_pos).mpr (by rwa [Nat.mul_comm])

/-- The floor of a rounded sum with a second term of at least k lies more than k - 1 above the first one. -/
theorem lt_floor_of_sum {c P : F64} {d k : Nat} (h : F64.RoundsTo c (F64.units P + d) 1) (hP : F64.Proper P)
    (hd : factorDen * k ≤ d) (hk : k < 2 ^ 32) (hc : F64.units c < factorDen * 2 ^ 32) :
    F64.units P + factorDen * k < factorDen * f64Floor c + factorDen := by
  have hPc : F64.units P ≤ F64.units c := h.reach_units hP (by omega)
  have hdiv : F64.units P / factorDen < 2 ^ 32 :=
    (Nat.div_lt_iff_lt_mul factorDen_pos).mpr (by rw [Nat.mul_comm]; exact hPc.trans_lt hc)
  have hmod := Nat.div_add_mod (F64.units P) factorDen
  have hlt := Nat.mod_lt (F64.units P) factorDen_pos
  have hsum : factorDen * (F64.units P / factorDen + k) ≤ F64.units P + d := by
    rw [Nat.mul_add]
    omega
  have hfloor : F64.units P / factorDen + k ≤ f64Floor c := by
    rw [f64Floor_eq h.proper, Nat.le_div_iff_mul_le factorDen_pos, Nat.mul_comm]
    exact h.reach (by omega) (by rwa [Nat.mul_one])
  have hmul := Nat.mul_le_mul_left factorDen hfloor
  rw [Nat.mul_add] at hmul
  omega

/-! ## XOFF -/

theorem one_unsigned : F64.Unsigned F64.one := by decide

theorem units_one : F64.units F64.one = factorDen := by
  rw [f64One_eq, (f64OfNat_exact (by decide)).2, Nat.mul_one]

theorem two_proper : F64.Proper f64Two := by decide

theorem units_two : F64.units f64Two = factorDen * 2 := by
  rw [f64Two_eq, (f64OfNat_exact (by decide)).2]

/-- (NMULT + 1) / 2 as CONFIG computes it. -/
def halfLengthReal (p : Params) (q : Quality) : F64 := f64Div (f64OfNat (1 + p.nmult q)) f64Two

/-- max(1, 1 / minF) as CONFIG computes it. -/
def stretchReal (a : F64) : F64 := f64Max F64.one (f64Div F64.one a)

theorem xoffReal_eq (p : Params) (q : Quality) (a : F64) :
    xoffReal p q a = f64Add (f64Mul (halfLengthReal p q) (stretchReal a)) (f64OfNat p.xoffPad) := rfl

theorem halfLengthReal_unsigned (p : Params) (q : Quality) : F64.Unsigned (halfLengthReal p q) :=
  f64Div_unsigned (f64OfNat_unsigned _) (by decide) two_proper

/-- The half length reaches every integer of 52 bits that the exact one reaches. -/
theorem halfLengthReal_reach {p : Params} {q : Quality} {m : Nat} (h : F64.Proper (halfLengthReal p q))
    (hm : m < 2 ^ 52) (hle : 2 * m ≤ 1 + p.nmult q) : factorDen * m ≤ F64.units (halfLengthReal p q) := by
  obtain ⟨hn, hdiv⟩ := f64Div_roundsTo (f64OfNat_unsigned _) (by decide) two_proper h
  have hnum := (f64OfNat_roundsTo hn).reach (m := 2 * m) (by omega)
    (by rw [Nat.mul_one]; exact Nat.mul_le_mul_left _ hle)
  refine hdiv.reach (by omega) ?_
  rw [units_two]
  calc factorDen * m * (factorDen * 2) = factorDen * (factorDen * (2 * m)) := by ring
    _ ≤ _ := Nat.mul_le_mul_left _ hnum

theorem halfLengthReal_pos (p : Params) (q : Quality) (h : 1 ≤ p.nmult q) : 0 < (halfLengthReal p q).toNat := by
  rcases (halfLengthReal_unsigned p q).lt_or_eq with hp | hp
  · rw [← F64.units_pos_iff]
    exact (Nat.mul_pos factorDen_pos Nat.one_pos).trans_le (halfLengthReal_reach (m := 1) hp (by decide) (by omega))
  · rw [hp]; decide

section
variable {a : F64} (ha0 : 0 < a.toNat) (ha : F64.Proper a)
include ha0 ha

theorem stretchReal_toNat : (stretchReal a).toNat = max F64.one.toNat (f64Div F64.one a).toNat :=
  f64Max_toNat one_unsigned (f64Div_unsigned one_unsigned ha0 ha)

theorem stretchReal_unsigned : F64.Unsigned (stretchReal a) := by
  rw [F64.Unsigned, stretchReal_toNat ha0 ha]
  exact Nat.max_le.mpr ⟨one_unsigned, f64Div_unsigned one_unsigned ha0 ha⟩

theorem factorDen_le_stretchReal : factorDen ≤ F64.units (stretchReal a) := by
  rw [← units_one, F64.units_le_units_iff, stretchReal_toNat ha0 ha]
  exact Nat.le_max_left ..

theorem stretchReal_pos : 0 < (stretchReal a).toNat :=
  (F64.units_pos_iff _).mp (factorDen_pos.trans_le (factorDen_le_stretchReal ha0 ha))

/-- The stretch is at least the rounded 1/a. -/
theorem stretchReal_error (h : F64.Proper (stretchReal a)) : ∃ r, r ≤ F64.units (stretchReal a) ∧
    2 ^ 53 * (factorDen * factorDen) ≤
      2 ^ 53 * (r * F64.units a) + factorDen * factorDen + 2 ^ 52 * F64.units a := by
  have hle : (f64Div F64.one a).toNat ≤ (stretchReal a).toNat := by
    rw [stretchReal_toNat ha0 ha]
    exact Nat.le_max_right ..
  obtain ⟨-, hdiv⟩ := f64Div_roundsTo one_unsigned ha0 ha (hle.trans_lt h)
  exact ⟨_, (F64.units_le_units_iff ..).mpr hle, by simpa only [units_one] using hdiv.error⟩

end

theorem factorDen_large : 2 ^ 60 ≤ factorDen := Nat.pow_le_pow_right (by decide) (by decide)

/-- XOFF passes the half length, and for a factor of at most 1 its product with the factor does up to the errors of
three roundings. -/
theorem floor_xoffReal {p : Params} {q : Quality} {a : F64} {H : Nat} (hs : p.sized = true) (ha0 : 0 < a.toNat)
    (ha : F64.Proper a) (hH : 1 + p.nmult q = 2 * H)
    (hlt : f64Lt (xoffReal p q a) (f64OfNat p.xCap) = true) :
    H < f64Floor (xoffReal p q a) ∧ f64Floor (xoffReal p q a) < 2 ^ 31 ∧
    (F64.units a ≤ factorDen →
      (2 ^ 51 - 1) * (H * factorDen) ≤ 2 ^ 51 * (f64Floor (xoffReal p q a) * F64.units a)) := by
  obtain ⟨-, hpad, -, hcap, -⟩ := Params.sized_parts hs
  rw [xoffReal_eq] at *
  have hhalf0 := halfLengthReal_pos p q (by omega)
  have hhalf := halfLengthReal_unsigned p q
  have hstretch0 := stretchReal_pos ha0 ha
  have hstretch := stretchReal_unsigned ha0 ha
  have hprod := f64Mul_unsigned hhalf hstretch hhalf0 hstretch0
  obtain ⟨hfin, hbound, hx⟩ := floor_lt_of_f64Lt (f64Add_unsigned hprod (f64OfNat_unsigned _)) (by omega) hlt
  obtain ⟨hprodfin, hpadfin, hsum⟩ := f64Add_roundsTo hprod (f64OfNat_unsigned _) hfin
  obtain ⟨hhalffin, hstretchfin, hmul⟩ := f64Mul_roundsTo hhalf hstretch hhalf0 hstretch0 hprodfin
  have hpadle : factorDen * 1 ≤ F64.units (f64OfNat p.xoffPad) :=
    (f64OfNat_roundsTo hpadfin).reach (by decide) (by rw [Nat.mul_one]; exact Nat.mul_le_mul_left _ hpad)
  have hfloor := lt_floor_of_sum hsum hprodfin hpadle (by decide) hbound
  rw [Nat.mul_one, Nat.add_lt_add_iff_right] at hfloor
  generalize f64Floor (f64Add (f64Mul (halfLengthReal p q) (stretchReal a)) (f64OfNat p.xoffPad)) = x at *
  have reach : ∀ m, m < 2 ^ 52 → m ≤ H → factorDen * m ≤ F64.units (halfLengthReal p q) ∧ m < x := by
    intro m hm hmH
    have hhalfm := halfLengthReal_reach hhalffin hm (by omega)
    refine ⟨hhalfm, Nat.lt_of_mul_lt_mul_left (a := factorDen) ?_⟩
    refine (hmul.reach (by omega) ?_).trans_lt hfloor
    exact Nat.mul_le_mul hhalfm (factorDen_le_stretchReal ha0 ha)
  have hHx : H < x := by
    by_contra hle
    have := (reach x (by omega) (by omega)).2
    omega
  refine ⟨hHx, by omega, fun hA => ?_⟩
  obtain ⟨r, hr, herr⟩ := stretchReal_error ha0 ha hstretchfin
  exact xoff_mul_factor_ge factorDen_large hA hr (reach H (by omega) le_rfl).1 hfloor herr hmul.error

/-! ## YSIZE -/

/-- A padding of at least 2.0 is unsigned. -/
theorem two_le_pad {c : F64} (h : f64Le f64Two c = true) : F64.Unsigned c ∧ factorDen * 2 ≤ F64.units c := by
  obtain ⟨-, hnan, hkey⟩ := (f64Le_iff ..).mp h
  have hc := c.isLt
  have hle : f64Two.toNat ≤ c.toNat ∧ c.toNat < 2 ^ 63 := by
    rw [show F64.key f64Two = 2 ^ 62 from rfl] at hkey
    rw [show f64Two.toNat = 2 ^ 62 from rfl]
    unfold F64.key at hkey
    split at hkey <;> omega
  refine ⟨?_, units_two ▸ (F64.units_le_units_iff ..).mpr hle.1⟩
  rw [F64.IsNaN, not_lt, Nat.mod_eq_of_lt hle.2] at hnan
  exact hnan

/-- YSIZE lies more than 1 above the rounded XSIZE * maxF, and that below the exact product by the error of one
rounding. -/
theorem floor_ysizeReal {p : Params} {X : Nat} {b : F64} (hs : p.sized = true) (hX0 : 0 < X) (hX : X < 2 ^ 31)
    (hb0 : 0 < b.toNat) (hb : F64.Proper b)
    (hlt : f64Lt (ysizeReal p X b) (f64Add (f64OfNat p.yCap) F64.one) = true) :
    f64Floor (ysizeReal p X b) < 2 ^ 32 ∧ ∃ r, r + factorDen < factorDen * f64Floor (ysizeReal p X b) ∧
      2 ^ 53 * (X * F64.units b) ≤ 2 ^ 53 * r + X * F64.units b + 2 ^ 52 := by
  obtain ⟨-, -, hpad, -, hcap⟩ := Params.sized_parts hs
  obtain ⟨hpad, hpadle⟩ := two_le_pad hpad
  have hX0' := f64OfNat_pos hX0
  obtain ⟨hXfin, hXunits⟩ := f64OfNat_exact (n := X) (by omega)
  have hprod := f64Mul_unsigned hXfin.le hb.le hX0' hb0
  rw [f64Add_one (by omega)] at hlt
  unfold ysizeReal at *
  obtain ⟨hfin, hbound, hy⟩ := floor_lt_of_f64Lt (f64Add_unsigned hprod hpad) (by omega) hlt
  obtain ⟨hprodfin, -, hsum⟩ := f64Add_roundsTo hprod hpad hfin
  obtain ⟨-, -, hmul⟩ := f64Mul_roundsTo hXfin.le hb.le hX0' hb0 hprodfin
  have hfloor := lt_floor_of_sum hsum hprodfin hpadle (by decide) hbound
  rw [Nat.mul_two, ← Nat.add_assoc, Nat.add_lt_add_iff_right] at hfloor
  refine ⟨by omega, _, hfloor, ?_⟩
  refine Nat.le_of_mul_le_mul_right (c := factorDen) ?_ factorDen_pos
  have herr := hmul.error
  rw [hXunits] at herr
  calc 2 ^ 53 * (X * F64.units b) * factorDen = 2 ^ 53 * (factorDen * X * F64.units b) := by ring
    _ ≤ _ := herr
    _ = _ := by ring

/-! ## CONFIG -/

/-- Bounds that pass the check are positive and finite. -/
theorem proper_of_boundsOk {a b : F64} (h : boundsOk a b = true) :
    0 < a.toNat ∧ F64.Proper a ∧ 0 < b.toNat ∧ F64.Proper b := by
  obtain ⟨ha0, hab, hb⟩ := (boundsOk_iff a b).mp h
  exact ⟨ha0, hab.trans_lt hb, ha0.trans_le hab, hb⟩

/-- XOFF table steps at the least factor pass the wing (42_engine.md R216). -/
theorem xoff_reach {p : Params} {q : Quality} {a : F64} (hs : p.sized = true) (ha0 : 0 < a.toNat) (ha : F64.Proper a)
    (hlt : f64Lt (xoffReal p q a) (f64OfNat p.xCap) = true) :
    2 ^ 32 * p.nwing q ≤ f64Floor (xoffReal p q a) * tableStep p.npc a := by
  obtain ⟨H, hH, hwing⟩ := Params.halfLength ((Params.sized_parts hs).1 q)
  obtain ⟨hHx, hx, hlow⟩ := floor_xoffReal hs ha0 ha hH hlt
  generalize f64Floor (xoffReal p q a) = x at *
  have hnpc : 0 < p.npc := Nat.two_pow_pos _
  have hclamp : 2 ^ 32 * p.nwing q ≤ x * (2 ^ 32 * p.npc) := by
    calc 2 ^ 32 * p.nwing q ≤ 2 ^ 32 * (p.npc * x) :=
          Nat.mul_le_mul_left _ (hwing.trans (Nat.mul_le_mul_left _ (by omega)))
      _ = _ := by ring
  unfold tableStep
  rw [factorNum_eq ha]
  rcases Nat.le_total (F64.units a) factorDen with hA | hA
  · obtain ⟨hup, -⟩ := rneDiv_nearestEven (n := 2 ^ 32 * p.npc * F64.units a) factorDen_pos
    have hsteps := wing_le_tableSteps factorDen_pos hnpc hHx hx hwing (hlow hA) hup
    rcases min_choice (2 ^ 32 * p.npc) (rneDiv (2 ^ 32 * p.npc * F64.units a) factorDen) with h | h <;> rw [h]
    · exact hclamp
    · exact hsteps
  · rw [Nat.min_eq_left (le_rneDiv factorDen_pos (by
      rw [Nat.mul_comm]; exact Nat.mul_le_mul_left _ hA))]
    exact hclamp

/-- Sizes that fit have 32 bits and reach at the two bounds of the factor (42_engine.md R216, R218). -/
theorem sizesFor_reach {p : Params} {q : Quality} {a b : F64} {z : Sizes} (hs : p.sized = true)
    (hab : boundsOk a b = true) (hz : sizesFor p q a b = some z) :
    z.xoff < 2 ^ 32 ∧ z.xsize < 2 ^ 32 ∧ z.ysize < 2 ^ 32 ∧ 2 ^ 32 * p.nwing q ≤ z.xoff * tableStep p.npc a ∧
      2 ^ 32 * (z.xsize - z.xoff) ≤ z.ysize * timeStep b := by
  obtain ⟨ha0, ha, hb0, hb⟩ := proper_of_boundsOk hab
  obtain ⟨hltx, hxoff, hxsize, hfit, hlty, hysize⟩ := sizesFor_eq_some hz
  obtain ⟨htier, -, -, hcap, -⟩ := Params.sized_parts hs
  obtain ⟨H, hH, -⟩ := Params.halfLength (htier q)
  have hpos := (floor_xoffReal hs ha0 ha hH hltx).1
  have hreach := xoff_reach hs ha0 ha hltx
  rw [← hxoff] at hpos hreach
  have hX0 : 0 < z.xsize := by omega
  obtain ⟨hylt, r, hr, herr⟩ := floor_ysizeReal hs hX0 (by omega) hb0 hb hlty
  rw [← hysize] at hylt hr
  obtain ⟨hup, -⟩ := rneDiv_nearestEven (n := 2 ^ 32 * factorDen) ((F64.units_pos_iff b).mpr hb0)
  refine ⟨by omega, by omega, hylt, hreach, ?_⟩
  rw [timeStep, factorNum_eq hb]
  exact pass_le_timeSteps ((F64.units_pos_iff b).mpr hb0) (by omega) (by omega) factorDen_large hr hylt herr hup

theorem configOutcome_eq_ok {quality : Nat} {s : State} {q : Quality} {z : Sizes}
    (h : configOutcome quality s = .ok (q, z)) : boundsOk s.opMinFactor s.opMaxFactor = true ∧
      tierOf quality = some q ∧ sizesFor s.params q s.opMinFactor s.opMaxFactor = some z := by
  obtain ⟨-, e⟩ | ⟨-, -, e⟩ | ⟨-, -, -, -, e⟩ | ⟨q', z', hb, hq, hz, e⟩ := configOutcome_cases quality s
  · simp [e] at h
  · simp [e] at h
  · simp [e] at h
  · obtain ⟨rfl, rfl⟩ : q' = q ∧ z' = z := by simpa [e] using h
    exact ⟨hb, hq, hz⟩

/-- The code of a refused CONFIG is not OK. -/
theorem configOutcome_ne_error_ok (quality : Nat) (s : State) : configOutcome quality s ≠ .error .ok := by
  obtain ⟨-, e⟩ | ⟨-, -, e⟩ | ⟨-, -, -, -, e⟩ | ⟨q, z, -, -, -, e⟩ :=
    configOutcome_cases quality s <;> simp [e]

/-- A CONFIG that ends with ERR = OK has found good bounds, a supported tier and sizes that fit, and started a fresh
stream. -/
theorem execConfig_ok {quality : Nat} {interp : Bool} {s t : State} (h : exec (.config quality interp) s = .next t)
    (hok : t.err = .ok) : ∃ q z, boundsOk s.opMinFactor s.opMaxFactor = true ∧ tierOf quality = some q ∧
      sizesFor s.params q s.opMinFactor s.opMaxFactor = some z ∧ t = s.startStream q interp z := by
  obtain ⟨-, rfl⟩ | ⟨-, code, hcode, rfl⟩ | ⟨-, q, z, hout, rfl⟩ := execConfig_cases h
  · simp at hok
  · rw [State.failConfig_err] at hok
    exact absurd (hok ▸ hcode) (configOutcome_ne_error_ok quality s)
  · obtain ⟨hb, hq, hz⟩ := configOutcome_eq_ok hout
    exact ⟨q, z, hb, hq, hz, rfl⟩

/-- Settles O28: the paddings and the distance of the wing's end from the half length exceed what the roundings lose. -/
theorem configSizesReachEveryFactor : Obligations.ConfigSizesReachEveryFactor := by
  intro s t quality interp hs _ hexec hok
  obtain ⟨q, z, hab, -, hz, rfl⟩ := execConfig_ok hexec hok
  obtain ⟨hxoff, hxsize, hysize, hwing, hpass⟩ := sizesFor_reach hs hab hz
  have hnwing : (s.startStream q interp z).nwing.toNat ≤ s.params.nwing q := Nat.mod_le ..
  have toNat_eq : ∀ n, n < 2 ^ 32 → (BitVec.ofNat 32 n).toNat = n := fun n hn => Nat.mod_eq_of_lt hn
  unfold State.SizesReach
  rw [State.startStream_xoff, State.startStream_xsize, State.startStream_ysize, toNat_eq _ hxoff, toNat_eq _ hxsize,
    toNat_eq _ hysize]
  exact ⟨(Nat.mul_le_mul_left _ hnwing).trans hwing, hpass⟩

end Sys2Proof.Machine
end

section
/-! PROOFS. What the parts of PROCESS do when they are done (spec/42_engine.md R187 to R200): each gives the work it
leaves as the work it found with the fields it changes, and memories that writes of words in use have changed. -/

namespace Sys2Proof.Machine

/-! ## Memories after writes -/

/-- Memory `m'` is `m` after writes of words below `limit`. -/
def Memory.Updates (limit : Nat) (m m' : Memory) : Prop :=
  Relation.ReflTransGen (fun a b => ∃ i v, i < limit ∧ b = a.write i v) m m'

/-- The words below `n` have been written. -/
def Memory.Written (m : Memory) (n : Nat) : Prop := ∀ i < n, (m.read i).isSome = true

section
variable {limit : Nat} {m m' m'' : Memory}

theorem Memory.Updates.refl : Memory.Updates limit m m := Relation.ReflTransGen.refl

theorem Memory.Updates.trans (h : Memory.Updates limit m m') (h' : Memory.Updates limit m' m'') :
    Memory.Updates limit m m'' :=
  Relation.ReflTransGen.trans h h'

theorem Memory.Updates.write {i : Nat} {v : Sample} (h : Memory.Updates limit m m') (hi : i < limit) :
    Memory.Updates limit m (m'.write i v) :=
  Relation.ReflTransGen.tail h ⟨i, v, hi, rfl⟩

/-- What holds of a memory and is kept by writes below the limit holds after them. -/
theorem Memory.Updates.keep {P : Memory → Prop} (h : Memory.Updates limit m m') (hm : P m)
    (hwrite : ∀ a i v, i < limit → P a → P (a.write i v)) : P m' := by
  induction h with
  | refl => exact hm
  | tail _ hw ih =>
    obtain ⟨i, v, hi, rfl⟩ := hw
    exact hwrite _ i v hi ih

theorem Memory.Updates.wf (h : Memory.Updates limit m m') (hm : m.wf) : m'.wf :=
  h.keep hm fun a i v _ ha => Memory.wf_write a i v ha

/-- Writes below the limit leave the words from the limit on alone. -/
theorem Memory.Updates.read_eq (h : Memory.Updates limit m m') {i : Nat} (hi : limit ≤ i) : m'.read i = m.read i :=
  h.keep (P := fun a => a.read i = m.read i) rfl fun a j v hj ha => by
    rw [Memory.read_write_other a j i v (by omega), ha]

theorem Memory.Written.write {n : Nat} (h : m.Written n) (i : Nat) (v : Sample) : (m.write i v).Written n := by
  intro k hk
  rw [Memory.read_write]
  split
  · rfl
  · exact h k hk

/-- Writing the first unwritten word extends what is written. -/
theorem Memory.Written.write_succ {n : Nat} (h : m.Written n) (v : Sample) : (m.write n v).Written (n + 1) := by
  intro k hk
  rw [Memory.read_write]
  split
  · rfl
  · exact h k (by omega)

theorem Memory.Written.mono {n k : Nat} (h : m.Written n) (hk : k ≤ n) : m.Written k :=
  fun i hi => h i (by omega)

/-- No write makes a word unwritten. -/
theorem Memory.Updates.written (h : Memory.Updates limit m m') {n : Nat} (hm : m.Written n) : m'.Written n :=
  h.keep (P := fun a => a.Written n) hm fun _ i v _ ha => Memory.Written.write ha i v

end

/-! ## Loops -/

section
variable {c : Call} {w w' : Work}

/-- A loop that is done and whose every round writes one word of X in use. -/
theorem forRange_writes_x {body : Nat → Work → Run} {first count : Nat}
    (h : forRange body first count w = .done w')
    (round : ∀ k v v', body k v = .done v' → ∃ i a, i < c.limit ∧ v' = { v with x := v.x.write i a }) :
    ∃ x, Memory.Updates c.limit w.x x ∧ w' = { w with x } := by
  refine forRange_done (P := fun _ v => ∃ x, Memory.Updates c.limit w.x x ∧ v = { w with x }) h
    ⟨w.x, .refl, rfl⟩ ?_
  rintro k v v' - - ⟨x, hx, rfl⟩ hround
  obtain ⟨i, a, hi, rfl⟩ := round _ _ _ hround
  exact ⟨_, hx.write hi, rfl⟩

/-- A loop that is done and whose every round writes one word of Y in use. -/
theorem forRange_writes_y {body : Nat → Work → Run} {first count : Nat}
    (h : forRange body first count w = .done w')
    (round : ∀ k v v', body k v = .done v' → ∃ i a, i < c.ysize ∧ v' = { v with y := v.y.write i a }) :
    ∃ y, Memory.Updates c.ysize w.y y ∧ w' = { w with y } := by
  refine forRange_done (P := fun _ v => ∃ y, Memory.Updates c.ysize w.y y ∧ v = { w with y }) h
    ⟨w.y, .refl, rfl⟩ ?_
  rintro k v v' - - ⟨y, hy, rfl⟩ hround
  obtain ⟨i, a, hi, rfl⟩ := round _ _ _ hround
  exact ⟨_, hy.write hi, rfl⟩

/-- A loop of deliveries that is done has made one for each round. -/
theorem forRange_outWrite {first count : Nat} (h : forRange (outWrite c) first count w = .done w') :
    ∃ out : List Sample, out.length = count ∧ w' = { w with moves := w.moves ++ out.map .output } := by
  have key := forRange_done (w' := w') (P := fun k v => ∃ out : List Sample,
    first + out.length = k ∧ v = { w with moves := w.moves ++ out.map .output }) h ⟨[], rfl, by simp⟩ (by
      rintro k v v' - - ⟨out, hlen, rfl⟩ hround
      obtain ⟨a, -, -, rfl⟩ := outWrite_eq_done.mp hround
      exact ⟨out ++ [a], by simp; omega, by simp⟩)
  simpa using key

/-! ## DRAIN, PULL and the padding -/

@[simp] theorem inputsOf_map_output (out : List Sample) : inputsOf (out.map .output) = 0 := by
  simp [inputsOf]

@[simp] theorem outputsOf_map_output (out : List Sample) : outputsOf (out.map .output) = out := by
  simp [outputsOf, List.filterMap_map]

@[simp] theorem inputsOf_replicate_input (n : Nat) : inputsOf (List.replicate n .input) = n := by
  simp [inputsOf, List.countP_replicate]

@[simp] theorem outputsOf_replicate_input (n : Nat) : outputsOf (List.replicate n .input) = [] := by
  simp [outputsOf]

/-- DRAIN takes from YP what it delivers, and writes only words of Y in use (42_engine.md R187). -/
theorem drain_done (h : drain c w = .done w') : ∃ (y : Memory) (out : List Sample),
    Memory.Updates c.ysize w.y y ∧ out.length = min (c.room - w.written) w.yp ∧
    w' = { w with y, yp := w.yp - out.length, moves := w.moves ++ out.map .output } := by
  unfold drain at h
  obtain ⟨w1, h1, h⟩ := Run.andThen_eq_done.mp h
  obtain ⟨w2, h2, h⟩ := Run.andThen_eq_done.mp h
  obtain ⟨out, hlen, rfl⟩ := forRange_outWrite h1
  obtain ⟨y, hy, rfl⟩ := forRange_writes_y h2 fun k v v' hround => by
    obtain ⟨a, -, -, hk, rfl⟩ := yCopy_eq_done.mp hround
    exact ⟨k, a, hk, rfl⟩
  refine ⟨y, out, hy, hlen, ?_⟩
  rw [hlen]
  simpa using h.symm

theorem pullOne_done {k : Nat} (h : pullOne c k w = .done w') : w.xread < c.limit ∧
    ∃ v, w' = { w with x := w.x.write w.xread v, xread := w.xread + 1, moves := w.moves ++ [.input] } := by
  unfold pullOne at h
  split at h
  · simp at h
  · next v _ =>
    obtain ⟨w1, h1, h⟩ := Run.andThen_eq_done.mp h
    obtain ⟨hlt, rfl⟩ := xWrite_eq_done.mp h1
    exact ⟨hlt, v, by simpa using h.symm⟩

/-- PULL takes as many samples as it writes to X above XREAD (42_engine.md R192). -/
theorem pull_done (h : pull c w = .done w') : ∃ (x : Memory) (count : Nat),
    Memory.Updates c.limit w.x x ∧ (w.x.Written w.xread → x.Written (w.xread + count)) ∧
    count = min (c.xsize - w.xread) (c.n - w.used) ∧
    w' = { w with x, xread := w.xread + count, moves := w.moves ++ List.replicate count .input } := by
  have key := forRange_done (P := fun k v => ∃ x, Memory.Updates c.limit w.x x ∧
    (w.x.Written w.xread → x.Written (w.xread + k)) ∧
    v = { w with x, xread := w.xread + k, moves := w.moves ++ List.replicate k .input }) h
    ⟨w.x, .refl, id, by simp⟩ (by
      rintro k v v' - - ⟨x, hx, hwritten, rfl⟩ hround
      obtain ⟨hlt, a, rfl⟩ := pullOne_done hround
      exact ⟨_, hx.write hlt, fun hw => (hwritten hw).write_succ a, by simp [List.replicate_succ', Nat.add_assoc]⟩)
  rw [Nat.zero_add] at key
  obtain ⟨x, hx, hwritten, rfl⟩ := key
  exact ⟨x, _, hx, hwritten, rfl, rfl⟩

/-- PULL and the padding of the final batch: FLUSHED is set exactly there (42_engine.md R192, R194). -/
theorem pullAndPad_done (h : pullAndPad c w = .done w') : ∃ (x : Memory) (count : Nat),
    Memory.Updates c.limit w.x x ∧ (w.x.Written w.xread → x.Written (w.xread + count)) ∧
    count = min (c.xsize - w.xread) (c.n - w.used) ∧
    w' = { w with
      x, xread := w.xread + count, moves := w.moves ++ List.replicate count .input
      flushed := w.flushed || finalBatch c w' } := by
  unfold pullAndPad at h
  obtain ⟨w1, h1, h⟩ := Run.andThen_eq_done.mp h
  obtain ⟨x, count, hx, hwritten, hcount, rfl⟩ := pull_done h1
  split at h
  · next hfinal =>
    unfold flush at h
    obtain ⟨w2, h2, h⟩ := Run.andThen_eq_done.mp h
    obtain ⟨x', hx', rfl⟩ := forRange_writes_x h2 fun k v v' hround => by
      obtain ⟨hlt, rfl⟩ := xWrite_eq_done.mp hround
      exact ⟨_, _, hlt, rfl⟩
    have hw' := Run.done.inj h
    have hfinal' : finalBatch c w' = true := hw' ▸ hfinal
    refine ⟨x', count, hx.trans hx', fun hw => hx'.written (hwritten hw), hcount, ?_⟩
    rw [hfinal', Bool.or_true]
    exact hw'.symm
  · next hfinal =>
    have hw' := Run.done.inj h
    have hfinal' : finalBatch c w' = false := hw' ▸ Bool.not_eq_true _ ▸ hfinal
    refine ⟨x, count, hx, hwritten, hcount, ?_⟩
    rw [hfinal', Bool.or_false]
    exact hw'.symm

/-! ## PASS and RETIRE -/

theorem passOne_done (h : passOne c w = .done w') : w.nout < c.ysize ∧
    ∃ v, w' = { w with y := w.y.write w.nout v, nout := w.nout + 1, time := w.time + c.dt } := by
  unfold passOne at h
  split at h
  · simp at h
  · next v _ =>
    obtain ⟨w1, h1, h⟩ := Run.andThen_eq_done.mp h
    obtain ⟨hlt, rfl⟩ := yWrite_eq_done.mp h1
    exact ⟨hlt, v, by simpa using h.symm⟩

/-- A pass that is done stands at the bound or less than DT past it and has written Y[0, nout), within YSIZE
(42_engine.md R196, R197). -/
theorem passFrom_done {bound : Nat} : ∀ (slots : Nat) {w : Work}, passFrom c bound slots w = .done w' →
    ∃ y, Memory.Updates c.ysize w.y y ∧ w' = { w with y, nout := w'.nout, time := w'.time } ∧ bound ≤ w'.time ∧
      (w.time < bound + c.dt → w'.time < bound + c.dt) ∧
      (w.nout ≤ c.ysize → w.y.Written w.nout → w'.nout ≤ c.ysize ∧ y.Written w'.nout)
  | 0, w, h => by
    unfold passFrom at h
    split at h
    · simp at h
    · next hend =>
      obtain rfl := Run.done.inj h
      exact ⟨_, .refl, rfl, by omega, id, .intro⟩
  | slots + 1, w, h => by
    unfold passFrom at h
    split at h
    · next hlt =>
      obtain ⟨w1, h1, h⟩ := Run.andThen_eq_done.mp h
      obtain ⟨hroom, v, rfl⟩ := passOne_done h1
      obtain ⟨y, hy, hw', hbound, htime, hmade⟩ := passFrom_done slots h
      exact ⟨y, (Memory.Updates.refl.write hroom).trans hy, hw', hbound, fun _ => htime (by dsimp only; omega),
        fun _ hwritten => hmade hroom (hwritten.write_succ v)⟩
    · next hend =>
      obtain rfl := Run.done.inj h
      exact ⟨_, .refl, rfl, by omega, id, .intro⟩

/-- PASS makes Y[0, nout), within YSIZE, and ends at its bound or less than DT past it (42_engine.md R196). -/
theorem pass_done {nx : Nat} (h : pass c nx w = .done w') :
    ∃ y, Memory.Updates c.ysize w.y y ∧ w' = { w with y, nout := w'.nout, time := w'.time } ∧
      w'.nout ≤ c.ysize ∧ y.Written w'.nout ∧ 2 ^ 32 * (c.xoff + nx) ≤ w'.time ∧
      (w.time < 2 ^ 32 * (c.xoff + nx) + c.dt → w'.time < 2 ^ 32 * (c.xoff + nx) + c.dt) := by
  obtain ⟨y, hy, hw', hbound, htime, hmade⟩ := passFrom_done (w := { w with nout := 0 }) _ h
  obtain ⟨hnout, hwritten⟩ := hmade (Nat.zero_le _) fun i hi => absurd hi (Nat.not_lt_zero i)
  exact ⟨y, hy, hw', hnout, hwritten, hbound, htime⟩

/-- RETIRE takes NX and the creep out of TIME, which then lies in [XOFF, XOFF + 1) samples (42_engine.md R198). -/
theorem retireCursor_rebases {nx : Nat} (h : 2 ^ 32 * (c.xoff + nx) ≤ w.time) : ∃ time creep,
    time + 2 ^ 32 * (nx + creep) = w.time ∧ 2 ^ 32 * c.xoff ≤ time ∧ time < 2 ^ 32 * (c.xoff + 1) ∧
    retireCursor c nx w = { w with time, xp := w.xp + nx + creep } := by
  refine ⟨_, _, ?_, ?_, ?_, rfl⟩ <;> omega

/-- RETIRE drops the words below XP - XOFF from X and makes Y[0, nout) pending (42_engine.md R199, R200). -/
theorem retireShift_done (h : retireShift c w = .done w') : ∃ x, Memory.Updates c.limit w.x x ∧
    w' = { w with x, xread := w.xread - (w.xp - c.xoff), xp := c.xoff, yp := w.nout } := by
  unfold retireShift at h
  obtain ⟨w1, h1, h⟩ := Run.andThen_eq_done.mp h
  obtain ⟨x, hx, rfl⟩ := forRange_writes_x h1 fun k v v' hround => by
    obtain ⟨a, -, -, hk, rfl⟩ := xCopy_eq_done.mp hround
    exact ⟨k, a, hk, rfl⟩
  exact ⟨x, hx, by simpa using h.symm⟩

end

end Sys2Proof.Machine
end

section
/-! PROOFS. What a whole PROCESS that is done has done: the memories, the transfers and the invariants of the streaming
state (spec/42_engine.md R188 to R203, spec/10_state.md R58, R59, R66, R67). -/

namespace Sys2Proof.Machine

/-! ## What every part keeps -/

/-- What PROCESS does to the memories and the ports on its way from `w` to `w'`: writes of words in use, and no more
transfers than the operands allow (10_state.md R46, R47, R58, R59). -/
structure Work.Reaches (c : Call) (w w' : Work) : Prop where
  x : Memory.Updates c.limit w.x w'.x
  y : Memory.Updates c.ysize w.y w'.y
  used : w.used ≤ c.n → w'.used ≤ c.n
  written : w.written ≤ c.room → w'.written ≤ c.room

section
variable {c : Call} {w w' w'' : Work}

theorem Work.Reaches.refl : Work.Reaches c w w := ⟨.refl, .refl, id, id⟩

theorem Work.Reaches.trans (h : Work.Reaches c w w') (h' : Work.Reaches c w' w'') : Work.Reaches c w w'' :=
  ⟨h.x.trans h'.x, h.y.trans h'.y, h'.used ∘ h.used, h'.written ∘ h.written⟩

theorem drain_reaches (h : drain c w = .done w') : Work.Reaches c w w' := by
  obtain ⟨y, out, hy, hlen, rfl⟩ := drain_done h
  refine ⟨.refl, hy, fun hn => by simpa [Work.used_eq] using hn, fun hroom => ?_⟩
  simp [Work.written_eq] at *
  omega

theorem pullAndPad_reaches (h : pullAndPad c w = .done w') : Work.Reaches c w w' := by
  obtain ⟨x, count, hx, -, hcount, hw'⟩ := pullAndPad_done h
  rw [hw']
  refine ⟨hx, .refl, fun hn => ?_, fun hroom => by simpa [Work.written_eq] using hroom⟩
  simp [Work.used_eq] at *
  omega

theorem passAndDrain_reaches {nx : Nat} (h : passAndDrain c nx w = .done w') : Work.Reaches c w w' := by
  unfold passAndDrain at h
  obtain ⟨w1, h1, h⟩ := Run.andThen_eq_done.mp h
  obtain ⟨w2, h2, h⟩ := Run.andThen_eq_done.mp h
  obtain ⟨y, hy, hw1, -⟩ := pass_done h1
  obtain ⟨x, hx, hw2⟩ := retireShift_done h2
  rw [hw1] at hx hw2
  have hshifted : Work.Reaches c w w2 := hw2 ▸ ⟨hx, hy, id, id⟩
  exact hshifted.trans (drain_reaches h)

theorem passes_reaches : ∀ (bound : Nat) {w : Work}, passes c bound w = .done w' → Work.Reaches c w w'
  | 0, w, h => Run.done.inj h ▸ .refl
  | bound + 1, w, h => by
    unfold passes at h
    obtain ⟨w1, h1, h⟩ := Run.andThen_eq_done.mp h
    refine (pullAndPad_reaches h1).trans ?_
    dsimp only at h
    split at h
    · exact Run.done.inj h ▸ .refl
    · obtain ⟨w2, h2, h⟩ := Run.andThen_eq_done.mp h
      refine (passAndDrain_reaches h2).trans ?_
      split at h
      · exact Run.done.inj h ▸ .refl
      · exact passes_reaches bound h

/-- PROCESS writes only words in use, takes at most OP_IN_COUNT samples and delivers at most OP_OUT_ROOM. -/
theorem processRun_reaches (h : processRun c w = .done w') : Work.Reaches c w w' := by
  unfold processRun at h
  obtain ⟨w1, h1, h⟩ := Run.andThen_eq_done.mp h
  refine (drain_reaches h1).trans ?_
  split at h
  · exact Run.done.inj h ▸ .refl
  · exact passes_reaches _ h

/-! ## The invariants of the streaming state -/

/-- The invariants of 10_state.md R66 and R67 on what PROCESS works on. -/
structure Work.Fits (c : Call) (w : Work) : Prop where
  time_ge : 2 ^ 32 * c.xoff ≤ w.time
  time_lt : w.time < 2 ^ 32 * (c.xoff + 1)
  xp_eq : w.xp = c.xoff
  yp_le : w.yp ≤ c.ysize
  x_written : w.x.Written w.xread
  y_written : w.y.Written w.yp
  unflushed : w.flushed = false → c.xoff ≤ w.xread ∧ w.xread ≤ 2 * c.xoff
  flushed : w.flushed = true → w.xread ≤ c.xoff

/-- DRAIN keeps the invariants, FLUSHED and the count of samples taken. -/
theorem drain_fits (h : drain c w = .done w') (hw : Work.Fits c w) :
    Work.Fits c w' ∧ w'.flushed = w.flushed ∧ w'.used = w.used := by
  obtain ⟨y, out, hy, -, rfl⟩ := drain_done h
  exact ⟨{ hw with
    yp_le := (Nat.sub_le ..).trans hw.yp_le
    y_written := (hy.written hw.y_written).mono (Nat.sub_le ..) }, rfl, by simp [Work.used_eq]⟩

/-- A pass over `nx` samples, the whole eligible part of what X holds, restores the invariants: NX and the creep leave
X, and at most XOFF of what is left lies before the cursor (42_engine.md R196 to R201, R217). -/
theorem passAndDrain_fits {nx : Nat} (h : passAndDrain c nx w = .done w') (hdt : c.dt ≤ 2 ^ 32 * c.xoff)
    (hge : 2 ^ 32 * c.xoff ≤ w.time) (hlt : w.time < 2 ^ 32 * (c.xoff + 1)) (hxp : w.xp = c.xoff)
    (hwritten : w.x.Written w.xread) (hnx : 0 < nx) (hunflushed : w.flushed = false → nx + 2 * c.xoff = w.xread)
    (hflushed : w.flushed = true → nx + c.xoff = w.xread) :
    Work.Fits c w' ∧ w'.flushed = w.flushed ∧ w'.used = w.used := by
  unfold passAndDrain at h
  obtain ⟨w1, h1, h⟩ := Run.andThen_eq_done.mp h
  obtain ⟨w2, h2, h⟩ := Run.andThen_eq_done.mp h
  obtain ⟨y, hy, hw1, hnout, hmade, hbound, htime⟩ := pass_done h1
  have htime := htime (by omega)
  obtain ⟨time, creep, hsum, htge, htlt, hcursor⟩ := retireCursor_rebases hbound
  rw [hcursor] at h2
  obtain ⟨x, hx, hw2⟩ := retireShift_done h2
  rw [hw1] at hx hw2
  have hfits : Work.Fits c w2 := by
    rw [hw2]
    refine ⟨htge, htlt, rfl, hnout, (hx.written hwritten).mono (Nat.sub_le ..), hmade, fun hf => ?_, fun hf => ?_⟩
    · have := hunflushed hf
      dsimp only
      omega
    · have := hflushed hf
      dsimp only
      omega
  obtain ⟨hfits', hflushed', hused'⟩ := drain_fits h hfits
  rw [hw2] at hflushed' hused'
  exact ⟨hfits', hflushed', hused'⟩

/-- The final batch takes the whole offer. -/
theorem used_of_finalBatch (h : finalBatch c w = true) : w.used = c.n := by
  simp only [finalBatch, Bool.and_eq_true, beq_iff_eq] at h
  exact h.2

/-- PROCESS ends after a pass when the whole offer is taken. -/
theorem stopsAfterPass_of_used (h : w.used = c.n) : stopsAfterPass c w = true := by
  simp [stopsAfterPass, h]

/-- The passes of a PROCESS restore the invariants: the loop goes on only before the flush, and the final batch is the
last one (42_engine.md R192 to R202). -/
theorem passes_fits (hdt : c.dt ≤ 2 ^ 32 * c.xoff) : ∀ (bound : Nat) {w : Work}, passes c bound w = .done w' →
    Work.Fits c w → w.flushed = false → Work.Fits c w'
  | 0, w, h, hw, _ => Run.done.inj h ▸ hw
  | bound + 1, w, h, hw, hunflushed => by
    unfold passes at h
    obtain ⟨w1, h1, h⟩ := Run.andThen_eq_done.mp h
    obtain ⟨x, count, -, hwritten, -, hw1⟩ := pullAndPad_done h1
    have hwritten := hwritten hw.x_written
    obtain ⟨hlow, -⟩ := hw.unflushed hunflushed
    generalize hfinal : finalBatch c w1 = final at hw1 h
    rw [hunflushed, Bool.false_or] at hw1
    subst hw1
    dsimp only at h
    generalize hnx : eligible c final _ = nx at h
    have hnormal : final = false → nx = ((w.xread + count : Nat) : Int) - 2 * c.xoff := by rintro rfl; exact hnx.symm
    have hlast : final = true → nx = ((w.xread + count : Nat) : Int) - c.xoff := by rintro rfl; exact hnx.symm
    split at h
    · next hnone =>
      obtain rfl := Run.done.inj h
      refine { hw with x_written := hwritten, unflushed := fun hf => ?_, flushed := fun hf => ?_ }
      · have := hnormal hf
        dsimp only
        omega
      · have := hlast hf
        dsimp only
        omega
    · next hsome =>
      obtain ⟨w2, h2, h⟩ := Run.andThen_eq_done.mp h
      obtain ⟨hfits, hflushed, hused⟩ := passAndDrain_fits h2 hdt hw.time_ge hw.time_lt hw.xp_eq hwritten (by omega)
        (fun hf => by have := hnormal hf; dsimp only; omega) (fun hf => by have := hlast hf; dsimp only; omega)
      split at h
      · exact Run.done.inj h ▸ hfits
      · next hgoes =>
        refine passes_fits hdt bound h hfits (hflushed.trans ?_)
        rw [← Bool.not_eq_true]
        rintro rfl
        exact hgoes (stopsAfterPass_of_used (hused.trans (used_of_finalBatch hfinal)))

/-- PROCESS restores the invariants of the streaming state. -/
theorem processRun_fits (hdt : c.dt ≤ 2 ^ 32 * c.xoff) (h : processRun c w = .done w') (hw : Work.Fits c w) :
    Work.Fits c w' := by
  unfold processRun at h
  obtain ⟨w1, h1, h⟩ := Run.andThen_eq_done.mp h
  obtain ⟨hfits, -⟩ := drain_fits h1 hw
  split at h
  · exact Run.done.inj h ▸ hfits
  · next hgoes =>
    rw [not_or, Bool.not_eq_true] at hgoes
    exact passes_fits hdt _ h hfits hgoes.2

end

end Sys2Proof.Machine
end

section
/-! PROOFS. The two commands: their frames, the accounts of PROCESS, and the invariants they establish and keep
(spec/10_state.md R65 to R69, spec/42_engine.md R181 to R186, R189, R203). -/

namespace Sys2Proof.Machine

/-! ## PROCESS -/

/-- The call checks name no code of success. -/
theorem processRefusal_ne_ok (s : State) : processRefusal s ≠ some .ok := by
  unfold processRefusal
  split
  · simp
  · split
    · simp
    · split
      · simp
      · split <;> simp

/-- The call checks pass in an unfaulted, configured block with a factor between the bounds, before the flush or without
an offer (42_engine.md R189). -/
theorem processRefusal_eq_none {s : State} : processRefusal s = none ↔
    s.fault = none ∧ s.configured = true ∧ f64Le s.cfgMinFactor s.opFactor = true ∧
      f64Le s.opFactor s.cfgMaxFactor = true ∧ (s.flushed = true → s.opInCount = 0#32) := by
  unfold processRefusal
  cases s.fault with
  | some cause => simp
  | none =>
    cases s.configured with
    | false => simp
    | true => cases f64Le s.cfgMinFactor s.opFactor <;> cases f64Le s.opFactor s.cfgMaxFactor <;> simp

/-- A PROCESS that ends with ERR = OK has met no refusal, no fault and no wait. -/
theorem execProcess_ok {last : Bool} {s t : State} (h : exec (.process last) s = .next t) (hrun : t.running = none)
    (hok : t.err = .ok) : processRefusal s = none ∧ ∃ w, processRun (s.call last) s.work = .done w ∧
      t = s.finishProcess w := by
  obtain ⟨code, hcode, rfl⟩ | ⟨hnone, w, hw, rfl⟩ | ⟨-, cause, w, -, rfl⟩ | ⟨-, w, -, rfl⟩ := execProcess_cases h
  · rw [State.raiseErr_err] at hok
    exact absurd (hok ▸ hcode) (processRefusal_ne_ok s)
  · exact ⟨hnone, w, hw, rfl⟩
  · simp at hok
  · simp at hrun

/-- A PROCESS that is done has taken and delivered no more than its operands allow. -/
theorem processRun_limits {last : Bool} {s : State} {w : Work} (h : processRun (s.call last) s.work = .done w) :
    w.used ≤ s.opInCount.toNat ∧ w.written ≤ s.opOutRoom.toNat :=
  ⟨(processRun_reaches h).used (Nat.zero_le _), (processRun_reaches h).written (Nat.zero_le _)⟩

/-- Settles O44: the results are the counts of the transfers, which the operands bound and the ports show. -/
theorem processAccounting : Obligations.ProcessAccounting := by
  intro s t last h hrun hok
  obtain ⟨-, w, hw, rfl⟩ := execProcess_ok h hrun hok
  obtain ⟨hused, hwritten⟩ := processRun_limits hw
  have hin : (BitVec.ofNat 32 w.used).toNat = w.used := Nat.mod_eq_of_lt (by omega)
  have hout : (BitVec.ofNat 32 w.written).toNat = w.written := Nat.mod_eq_of_lt (by omega)
  simp only [State.finishProcess_resInUsed, State.finishProcess_resOutWritten, hin, hout]
  refine ⟨hused, hwritten, rfl, ⟨w.out, rfl, rfl⟩, rfl, ?_⟩
  rw [← BitVec.toNat_inj, ← BitVec.toNat_inj, hin, hout]
  simp

/-- However PROCESS ends, the configuration, the operands, OVERRUN and the host's record stay (10_state.md R69). -/
theorem execProcess_frame {last : Bool} {s t : State} (h : exec (.process last) s = .next t) :
    SameConfiguration s t ∧ SameOperands s t ∧ t.overrun = s.overrun ∧ t.bus = s.bus ∧ t.answer = s.answer ∧
      t.latencies = s.latencies := by
  obtain ⟨code, -, rfl⟩ | ⟨-, w, -, rfl⟩ | ⟨-, cause, w, -, rfl⟩ | ⟨-, w, -, rfl⟩ := execProcess_cases h <;>
    exact ⟨⟨rfl, rfl, rfl, rfl, rfl, rfl, rfl, rfl, rfl, rfl⟩, ⟨rfl, rfl, rfl, rfl, rfl⟩, rfl, rfl, rfl, rfl⟩

/-- Settles O45: a PROCESS that is done has written only words in use, and no other end of it touches X and Y but the
fault. -/
theorem processFrame : Obligations.ProcessFrame := by
  intro s t last h
  obtain ⟨hconfig, hops, hoverrun, hbus, hanswer, hlat⟩ := execProcess_frame h
  refine ⟨hconfig, hops, hoverrun, hbus, hanswer, hlat, ?_⟩
  obtain ⟨code, hcode, rfl⟩ | ⟨hnone, w, hw, rfl⟩ | ⟨hnone, cause, w, -, rfl⟩ | ⟨hnone, w, -, rfl⟩ :=
    execProcess_cases h
  · refine ⟨fun _ => ⟨rfl, fun _ _ => rfl, fun _ _ => rfl⟩, fun code' hcode' => ?_⟩
    obtain rfl := Option.some.inj (hcode.symm.trans hcode')
    rfl
  · have hreach := processRun_reaches hw
    exact ⟨fun _ => ⟨rfl, fun _ hi => hreach.x.read_eq hi, fun _ hi => hreach.y.read_eq hi⟩, by simp [hnone]⟩
  · exact ⟨by simp, by simp [hnone]⟩
  · exact ⟨fun _ => ⟨rfl, fun _ _ => rfl, fun _ _ => rfl⟩, by simp [hnone]⟩

/-! ## CONFIG -/

/-- Settles O46: the words of X below XOFF are the only ones that CONFIG writes. -/
theorem configFrame : Obligations.ConfigFrame := by
  intro s t quality interp h
  obtain ⟨hfault, rfl⟩ | ⟨hnone, code, -, rfl⟩ | ⟨hnone, q, z, hout, rfl⟩ := execConfig_cases h
  · refine ⟨⟨rfl, rfl, rfl, rfl, rfl⟩, ⟨rfl, rfl, rfl, rfl⟩, rfl, rfl, rfl, ⟨rfl, rfl, rfl⟩, rfl, ?_,
      fun _ => ⟨rfl, rfl, rfl⟩, fun _ => rfl⟩
    intro hnone
    simp [hnone] at hfault
  · exact ⟨⟨rfl, rfl, rfl, rfl, rfl⟩, ⟨rfl, rfl, rfl, rfl⟩, rfl, rfl, rfl, ⟨rfl, rfl, rfl⟩, rfl,
      fun _ _ => ⟨fun _ _ => rfl, fun _ => rfl⟩, fun _ => ⟨rfl, rfl, rfl⟩, fun hf => absurd hnone hf⟩
  · refine ⟨⟨rfl, rfl, rfl, rfl, rfl⟩, ⟨rfl, rfl, rfl, rfl⟩, rfl, rfl, rfl, ⟨rfl, rfl, rfl⟩, rfl,
      fun _ hcap => ⟨fun i hi => ?_, fun _ => rfl⟩, fun hok => absurd rfl hok, fun hf => absurd hnone hf⟩
    obtain ⟨-, -, hz⟩ := configOutcome_eq_ok hout
    obtain ⟨-, -, -, hfit, -⟩ := sizesFor_eq_some hz
    rw [State.startStream_xoff, BitVec.toNat_ofNat, Nat.mod_eq_of_lt (by omega)] at hi
    rw [State.startStream_x, Memory.read_zeros, if_neg (by omega)]

/-- Parameters under R8 make XSIZE more than twice XOFF. -/
theorem Params.xsizePad_pos {p : Params} (h : p.sized = true) : 1 ≤ p.xsizePad := by
  unfold Params.sized at h
  simp only [Bool.and_eq_true, decide_eq_true_eq] at h
  obtain ⟨⟨⟨⟨⟨-, hpad⟩, -⟩, -⟩, -⟩, -⟩ := h
  exact hpad

/-- The half length of a tier's filter is at least 2. -/
theorem Params.two_le_halfLength {p : Params} {q : Quality} {H : Nat} (h : p.tierSized q = true)
    (hH : 1 + p.nmult q = 2 * H) : 2 ≤ H := by
  unfold Params.tierSized at h
  simp only [Bool.and_eq_true, decide_eq_true_eq] at h
  omega

/-- A time step of a positive finite factor is at most `x` samples when `x` times the factor is at least 1. -/
theorem timeStep_le {a : F64} {x : Nat} (ha0 : 0 < a.toNat) (ha : F64.Proper a) (h : factorDen ≤ x * F64.units a) :
    timeStep a ≤ 2 ^ 32 * x := by
  rw [timeStep, factorNum_eq ha]
  refine rneDiv_le ((F64.units_pos_iff a).mpr ha0) ?_
  calc 2 ^ 32 * factorDen ≤ 2 ^ 32 * (x * F64.units a) := Nat.mul_le_mul_left _ h
    _ = _ := by ring

/-- What sizes that fit obey: the order of R65 and the bound of R217. -/
theorem sizesFor_fits {p : Params} {q : Quality} {a b : F64} {z : Sizes} (hs : p.sized = true)
    (hab : boundsOk a b = true) (hz : sizesFor p q a b = some z) :
    1 ≤ z.xoff ∧ 2 * z.xoff + 1 ≤ z.xsize ∧ z.xsize + z.xoff ≤ p.xCap ∧ 1 ≤ z.ysize ∧ z.ysize ≤ p.yCap ∧
      timeStep a ≤ 2 ^ 32 * z.xoff := by
  obtain ⟨ha0, ha, hb0, hb⟩ := proper_of_boundsOk hab
  obtain ⟨hltx, hxoff, hxsize, hfit, hlty, hysize⟩ := sizesFor_eq_some hz
  obtain ⟨htier, -, hpad, hxcap, hycap⟩ := Params.sized_parts hs
  obtain ⟨H, hH, -⟩ := Params.halfLength (htier q)
  have hH2 := Params.two_le_halfLength (htier q) hH
  have hxpad := Params.xsizePad_pos hs
  obtain ⟨hHx, -, hlow⟩ := floor_xoffReal hs ha0 ha hH hltx
  rw [← hxoff] at hHx hlow
  have hX0 : 0 < z.xsize := by omega
  obtain ⟨-, r, hr, -⟩ := floor_ysizeReal hs hX0 (by omega) hb0 hb hlty
  have hy0 : 0 < z.ysize := by
    rw [← hysize] at hr
    exact Nat.pos_of_ne_zero fun h0 => by simp [h0] at hr
  have hycap' : z.ysize < p.yCap + 1 := by
    rw [f64Add_one (by omega)] at hlty
    have hprod := f64Mul_unsigned (f64OfNat_unsigned z.xsize) hb.le (f64OfNat_pos hX0) hb0
    rw [hysize]
    exact (floor_lt_of_f64Lt (f64Add_unsigned hprod (two_le_pad hpad).1) (by omega) hlty).2.2
  refine ⟨by omega, by omega, hfit, hy0, by omega, timeStep_le ha0 ha ?_⟩
  rcases Nat.le_total (F64.units a) factorDen with hA | hA
  · have hlow := hlow hA
    have hH := Nat.mul_le_mul_right factorDen hH2
    have := factorDen_pos
    omega
  · exact hA.trans (Nat.le_mul_of_pos_left _ (by omega))

/-- The registers of a fresh stream hold the sizes and the cursor as they are. -/
theorem startStream_toNat {s : State} {q : Quality} {z : Sizes} (hp : Params.Fit s.params)
    (hab : boundsOk s.opMinFactor s.opMaxFactor = true)
    (hz : sizesFor s.params q s.opMinFactor s.opMaxFactor = some z) (interp : Bool) :
    (s.startStream q interp z).xoff.toNat = z.xoff ∧ (s.startStream q interp z).xsize.toNat = z.xsize ∧
    (s.startStream q interp z).ysize.toNat = z.ysize ∧ (s.startStream q interp z).xread.toNat = z.xoff ∧
    (s.startStream q interp z).time.toNat = 2 ^ 32 * z.xoff ∧
    (s.startStream q interp z).nwing.toNat = s.params.nwing q := by
  obtain ⟨hsized, hfast, hhigh⟩ := hp
  obtain ⟨hxoff, hxsize, hysize, -⟩ := sizesFor_reach hsized hab hz
  have hnwing : s.params.nwing q < 2 ^ 32 := by cases q <;> assumption
  exact ⟨Nat.mod_eq_of_lt hxoff, Nat.mod_eq_of_lt hxsize, Nat.mod_eq_of_lt hysize, Nat.mod_eq_of_lt hxoff,
    Nat.mod_eq_of_lt (by omega), Nat.mod_eq_of_lt hnwing⟩

/-- A fresh stream meets the invariants (10_state.md R65 to R67). -/
theorem startStream_invariants {s : State} {q : Quality} {z : Sizes} (hp : Params.Fit s.params)
    (hab : boundsOk s.opMinFactor s.opMaxFactor = true)
    (hz : sizesFor s.params q s.opMinFactor s.opMaxFactor = some z) (interp : Bool) :
    let t := s.startStream q interp z
    t.SizesFit ∧ t.CursorFits ∧ t.WordsWritten ∧ t.StepFits := by
  obtain ⟨hxoff, hxsize, hysize, hxread, htime, hnwing⟩ := startStream_toNat hp hab hz interp
  obtain ⟨hx1, hx2, hcap, hy1, hycap, hstep⟩ := sizesFor_fits hp.1 hab hz
  dsimp only
  refine ⟨?_, ?_, ?_, hab, ?_⟩
  · rw [State.SizesFit, hxoff, hxsize, hysize, hnwing]
    exact ⟨hx1, hx2, hcap, hy1, hycap, rfl⟩
  · rw [State.CursorFits, hxoff, hxread, htime]
    exact ⟨le_rfl, by omega, rfl, Nat.zero_le _, fun _ => ⟨le_rfl, by omega⟩, fun _ => le_rfl⟩
  · rw [State.WordsWritten, hxread]
    refine ⟨fun i hi => ?_, fun i hi => absurd hi (Nat.not_lt_zero i)⟩
    rw [State.startStream_x, Memory.read_zeros, if_pos hi]
    rfl
  · rw [hxoff]
    exact hstep

/-- A fresh stream stands at the beginning of every stream (42_engine.md R220). -/
theorem startStream_tracks {s : State} {q : Quality} {z : Sizes} (hp : Params.Fit s.params)
    (hab : boundsOk s.opMinFactor s.opMaxFactor = true)
    (hz : sizesFor s.params q s.opMinFactor s.opMaxFactor = some z) (interp : Bool) (stream : List Sample) :
    (s.startStream q interp z).Tracks stream 0 0 0 := by
  obtain ⟨hxoff, -, -, hxread, htime, -⟩ := startStream_toNat hp hab hz interp
  rw [State.Tracks, hxoff, hxread, htime]
  refine ⟨Nat.zero_le _, le_rfl, by omega, by omega, fun j hj => ?_, fun j hj => absurd hj (Nat.not_lt_zero j),
    fun k hk => absurd hk (Nat.not_lt_zero k), by simp⟩
  rw [State.startStream_x, Memory.read_zeros, if_pos hj, streamBuffer, if_pos (by omega)]

/-- Settles O27: the sizing leaves room in every order that R65 names, and a creep of at most XOFF. -/
theorem configEstablishesTheInvariants : Obligations.ConfigEstablishesTheInvariants := by
  intro s t quality interp hp _ h hok
  obtain ⟨q, z, hab, hq, hz, rfl⟩ := execConfig_ok h hok
  obtain ⟨hsizes, hcursor, hwords, hstep⟩ := startStream_invariants hp hab hz interp
  obtain ⟨hxoff, hxsize, hysize, -⟩ := startStream_toNat hp hab hz interp
  exact ⟨hsizes, hcursor, hwords, hstep, ⟨Memory.wf_zeros _, Memory.wf_nil⟩, ⟨q, z, hq, hz, hxoff, hxsize, hysize⟩,
    startStream_tracks hp hab hz interp⟩

/-- CONFIG keeps the invariant. -/
theorem execConfig_keeps_streamInv {quality : Nat} {interp : Bool} {s t : State} (hs : s.StreamInv)
    (h : exec (.config quality interp) s = .next t) : t.StreamInv := by
  obtain ⟨hp, hwf, hinv⟩ := hs
  obtain ⟨-, rfl⟩ | ⟨-, code, -, rfl⟩ | ⟨-, q, z, hout, rfl⟩ := execConfig_cases h
  · exact ⟨hp, hwf, hinv⟩
  · exact streamInv_of_unconfigured hp rfl rfl rfl
  · obtain ⟨hab, -, hz⟩ := configOutcome_eq_ok hout
    exact ⟨hp, ⟨Memory.wf_zeros _, Memory.wf_nil⟩, fun _ _ => startStream_invariants hp hab hz interp⟩

/-! ## The invariant and PROCESS -/

/-- A smaller divisor gives no smaller rounded quotient. -/
theorem rneDiv_antitone {n d d' : Nat} (hd : 0 < d) (h : d ≤ d') : rneDiv n d' ≤ rneDiv n d := by
  obtain ⟨hup, -⟩ := rneDiv_nearestEven (n := n) hd
  obtain ⟨-, hlow, -⟩ := rneDiv_nearestEven (n := n) (hd.trans_le h)
  by_contra hlt
  have heq : d = d' := by nlinarith
  exact hlt (heq ▸ le_rfl)

/-- An accepted factor is positive and finite and not below the least one (42_engine.md R182, R189). -/
theorem proper_of_accepted {a b f : F64} (hab : boundsOk a b = true) (haf : f64Le a f = true)
    (hfb : f64Le f b = true) : 0 < f.toNat ∧ F64.Proper f ∧ a.toNat ≤ f.toNat := by
  obtain ⟨ha0, ha, -, hb⟩ := proper_of_boundsOk hab
  obtain ⟨-, -, haf⟩ := (f64Le_iff ..).mp haf
  obtain ⟨-, -, hfb⟩ := (f64Le_iff ..).mp hfb
  have hinf : binary64.infBits < 2 ^ 63 := by decide
  rw [F64.Proper] at *
  generalize binary64.infBits = inf at *
  unfold F64.key at haf hfb
  rw [if_pos (ha.trans hinf)] at haf
  rw [if_pos (hb.trans hinf)] at hfb
  split at haf <;> split at hfb <;> omega

/-- No accepted factor has a longer time step than the least one (42_engine.md R190, R217). -/
theorem timeStep_le_of_accepted {a b f : F64} (hab : boundsOk a b = true) (haf : f64Le a f = true)
    (hfb : f64Le f b = true) : timeStep f ≤ timeStep a := by
  obtain ⟨ha0, ha, -⟩ := proper_of_boundsOk hab
  obtain ⟨-, hf, hle⟩ := proper_of_accepted hab haf hfb
  rw [timeStep, timeStep, factorNum_eq ha, factorNum_eq hf]
  exact rneDiv_antitone ((F64.units_pos_iff a).mpr ha0) ((F64.units_le_units_iff a f).mpr hle)

/-- The invariants of a state are those of what a PROCESS works on. -/
theorem work_fits {s : State} (last : Bool) (hcursor : s.CursorFits) (hwords : s.WordsWritten) :
    Work.Fits (s.call last) s.work := by
  obtain ⟨hge, hlt, hxp, hyp, hunflushed, hflushed⟩ := hcursor
  exact ⟨hge, hlt, congrArg BitVec.toNat hxp, hyp, hwords.1, hwords.2, hunflushed, hflushed⟩

/-- A PROCESS that ends with work within the invariants leaves a state within them: no register cuts its value. -/
theorem finishProcess_fits {s : State} {last : Bool} {w : Work} (hsizes : s.SizesFit)
    (h : Work.Fits (s.call last) w) : (s.finishProcess w).CursorFits ∧ (s.finishProcess w).WordsWritten := by
  obtain ⟨hge, hlt, hxp, hyp, hx, hy, hunflushed, hflushed⟩ := h
  have hxoff : (s.call last).xoff = s.xoff.toNat := rfl
  have hysize : (s.call last).ysize = s.ysize.toNat := rfl
  rw [hxoff] at hge hlt hxp hunflushed hflushed
  rw [hysize] at hyp
  have hread : w.xread ≤ 2 * s.xoff.toNat := by
    cases hf : w.flushed with
    | false => exact (hunflushed hf).2
    | true => exact (hflushed hf).trans (by omega)
  obtain ⟨-, hxsize, -⟩ := hsizes
  have htime : (BitVec.ofNat 64 w.time).toNat = w.time := Nat.mod_eq_of_lt (by omega)
  have hxread : (BitVec.ofNat 32 w.xread).toNat = w.xread := Nat.mod_eq_of_lt (by omega)
  have hyp' : (BitVec.ofNat 32 w.yp).toNat = w.yp := Nat.mod_eq_of_lt (by omega)
  simp only [State.CursorFits, State.WordsWritten, State.finishProcess_time, State.finishProcess_xread,
    State.finishProcess_yp, State.finishProcess_xoff, State.finishProcess_ysize, State.finishProcess_xp,
    State.finishProcess_flushed, State.finishProcess_x, State.finishProcess_y, htime, hxread, hyp', hxp,
    BitVec.ofNat_toNat, BitVec.setWidth_eq]
  exact ⟨⟨hge, hlt, trivial, hyp, hunflushed, hflushed⟩, hx, hy⟩

/-- PROCESS keeps the invariant. -/
theorem execProcess_keeps_streamInv {last : Bool} {s t : State} (hs : s.StreamInv)
    (h : exec (.process last) s = .next t) : t.StreamInv := by
  obtain ⟨hp, ⟨hx, hy⟩, hinv⟩ := hs
  obtain ⟨code, -, rfl⟩ | ⟨hnone, w, hw, rfl⟩ | ⟨-, cause, w, -, rfl⟩ | ⟨-, w, -, rfl⟩ := execProcess_cases h
  · exact ⟨hp, ⟨hx, hy⟩, hinv⟩
  · obtain ⟨hfault, hconf, hmin, hmax, -⟩ := processRefusal_eq_none.mp hnone
    obtain ⟨hsizes, hcursor, hwords, hbounds, hstep⟩ := hinv hconf hfault
    have hreach := processRun_reaches hw
    have hdt : (s.call last).dt ≤ 2 ^ 32 * (s.call last).xoff :=
      (timeStep_le_of_accepted hbounds hmin hmax).trans hstep
    obtain ⟨hcursor', hwords'⟩ := finishProcess_fits hsizes (processRun_fits hdt hw (work_fits last hcursor hwords))
    exact ⟨hp, ⟨hreach.x.wf hx, hreach.y.wf hy⟩, fun _ _ => ⟨hsizes, hcursor', hwords', hbounds, hstep⟩⟩
  · exact ⟨hp, ⟨Memory.wf_unspecified _ _, Memory.wf_unspecified _ _⟩, fun _ hf => by simp at hf⟩
  · exact ⟨hp, ⟨hx, hy⟩, hinv⟩

/-- Both commands keep the invariant. -/
theorem exec_keeps_streamInv {i : Instr} {s t : State} (hs : s.StreamInv) (h : exec i s = .next t) : t.StreamInv := by
  cases i with
  | config quality interp => exact execConfig_keeps_streamInv hs h
  | process last => exact execProcess_keeps_streamInv hs h

end Sys2Proof.Machine
end

section
/-! PROOFS. The STATUS and PARAM registers and the decoding of command words (spec/10_state.md R34 to R40, R57, R64,
spec/30_encoding.md R105, R106). -/

namespace Sys2Proof.Machine

/-! ## The engine state -/

section
variable {s : State}

theorem engineState_of_fault (h : s.fault ≠ none) : s.engineState = .faulted := by
  rw [State.engineState, if_pos (Option.isSome_iff_ne_none.mpr h)]

/-- Without a fault, a running command decides the engine state. -/
theorem engineState_of_process (hf : s.fault = none) {last : Bool} (hr : s.running = some (.process last)) :
    s.engineState = .filtering := by
  simp [State.engineState, hf, hr]

theorem engineState_of_config (hf : s.fault = none) {quality : Nat} {interp : Bool}
    (hr : s.running = some (.config quality interp)) : s.engineState = .configuring := by
  simp [State.engineState, hf, hr]

/-- Without a fault or a command, the streaming state decides the engine state. -/
theorem engineState_of_idle (hf : s.fault = none) (hr : s.running = none) : s.engineState =
    if s.configured = false then .unconfigured else if s.yp ≠ 0#32 then .draining
    else if s.flushed then .exhausted else .awaitingInput := by
  simp [State.engineState, hf, hr]

end

/-- Settles O15: the rows of the table are the branches of STATE. -/
theorem engineStateIsTheFirstMatch : Obligations.EngineStateIsTheFirstMatch := by
  intro s
  refine ⟨fun hf => ?_, fun hf last hr => ?_, fun hf quality interp hr => ?_, fun hf hr hc => ?_,
    fun hf hr hc hy => ?_, fun hf hr hc hy hfl => ?_, fun hf hr hc hy hfl => ?_⟩
  · rw [engineState_of_fault hf]; rfl
  · rw [engineState_of_process hf hr]; rfl
  · rw [engineState_of_config hf hr]; rfl
  · simp [engineState_of_idle hf hr, hc, EngineState.code]
  · simp [engineState_of_idle hf hr, hc, hy, EngineState.code]
  · simp [engineState_of_idle hf hr, hc, hy, hfl, EngineState.code]
  · simp [engineState_of_idle hf hr, hc, hy, hfl, EngineState.code]

/-! ## The layout of STATUS and PARAM -/

/-- A bit of a word, as a digit of its number. -/
theorem getLsbD_of_digit {n i : Nat} {b : Bool} {w : Word} (hw : w.toNat = n) (h : n / 2 ^ i % 2 = b.toNat) :
    w.getLsbD i = b := by
  rw [BitVec.getLsbD, hw, Nat.testBit_eq_decide_div_mod_eq, h]
  cases b <;> rfl

/-- The fields of the STATUS word stand where 10_state.md lists them, and the other bits are 0. -/
theorem statusWord_layout (configured busy noProgress flushed fault overrun : Bool) (err state cause : Nat) :
    let w := statusWord configured busy noProgress flushed fault overrun err state cause
    w.getLsbD 0 = configured ∧ w.getLsbD 1 = busy ∧ w.getLsbD 2 = noProgress ∧ w.getLsbD 3 = flushed ∧
    w.getLsbD 4 = fault ∧ w.getLsbD 5 = overrun ∧ w.toNat / 2 ^ 6 % 4 = 0 ∧ w.toNat / 2 ^ 8 % 16 = err % 16 ∧
    w.toNat / 2 ^ 12 % 8 = state % 8 ∧ w.toNat / 2 ^ 15 % 2 = 0 ∧ w.toNat / 2 ^ 16 % 256 = cause % 256 ∧
    w.toNat < 2 ^ 24 := by
  have bit : ∀ b : Bool, b.toNat < 2 := Bool.toNat_lt
  have hc := bit configured
  have hb := bit busy
  have hn := bit noProgress
  have hl := bit flushed
  have hf := bit fault
  have ho := bit overrun
  dsimp only
  generalize hw : statusWord configured busy noProgress flushed fault overrun err state cause = w
  have hnum : w.toNat = configured.toNat + 2 * busy.toNat + 4 * noProgress.toNat + 8 * flushed.toNat +
      16 * fault.toNat + 32 * overrun.toNat + 2 ^ 8 * (err % 16) + 2 ^ 12 * (state % 8) + 2 ^ 16 * (cause % 256) := by
    rw [← hw, statusWord, BitVec.toNat_ofNat, Nat.mod_eq_of_lt (by omega)]
  refine ⟨getLsbD_of_digit hnum ?_, getLsbD_of_digit hnum ?_, getLsbD_of_digit hnum ?_, getLsbD_of_digit hnum ?_,
    getLsbD_of_digit hnum ?_, getLsbD_of_digit hnum ?_, ?_, ?_, ?_, ?_, ?_, ?_⟩ <;> omega

theorem ErrCode.code_lt (e : ErrCode) : e.code < 16 := by cases e <;> decide

theorem EngineState.code_lt (e : EngineState) : e.code < 8 := by cases e <;> decide

theorem causeCode_lt : ∀ cause : Option FaultCause, causeCode cause < 256
  | none => by decide
  | some .range => by decide
  | some .yovf => by decide

theorem paramWord_layout (p : Params) :
    (paramWord p).toNat = p.k % 256 + 2 ^ 8 * (p.nmultFast % 256) + 2 ^ 16 * (p.nmultHigh % 256) := by
  rw [paramWord, BitVec.toNat_ofNat, Nat.mod_eq_of_lt (by omega)]

/-- Settles O14: the sums of the fields' weights do not overlap. -/
theorem statusAndParamLayout : Obligations.StatusAndParamLayout := by
  refine ⟨fun s => ?_, by decide, by decide, fun p => ?_, by decide⟩
  · have h := statusWord_layout s.configured s.busy s.noProgress s.flushed s.fault.isSome s.overrun s.err.code
      s.engineState.code (causeCode s.fault)
    rw [Nat.mod_eq_of_lt s.err.code_lt, Nat.mod_eq_of_lt s.engineState.code_lt,
      Nat.mod_eq_of_lt (causeCode_lt s.fault)] at h
    exact h
  · rw [paramWord_layout]
    omega

/-! ## Command words -/

/-- The conditions of 30_encoding.md R105 in the numbers that the decoder reads. -/
theorem malformed_iff (w : Word) : Malformed w ↔
    field w 3 0 ≠ 1 ∧ field w 3 0 ≠ 2 ∨ field w 63 8 ≠ 0 ∨ field w 3 0 = 1 ∧ field w 4 4 ≠ 0 ∨
      field w 3 0 = 2 ∧ field w 7 5 ≠ 0 := by
  have hw := w.isLt
  have hop : ∀ v : Word, w &&& 0xF#64 = v ↔ w.toNat % 16 = v.toNat := fun v => by
    rw [← BitVec.toNat_inj, BitVec.toNat_and]
    exact iff_of_eq (congrArg (· = v.toNat) (Nat.and_two_pow_sub_one_eq_mod w.toNat 4))
  have hhigh : w >>> 8 = 0#64 ↔ w.toNat / 256 = 0 := by
    rw [← BitVec.toNat_inj, BitVec.toNat_ushiftRight, Nat.shiftRight_eq_div_pow]; rfl
  have hquality : (w >>> 6) &&& 3#64 = 0#64 ↔ w.toNat / 64 % 4 = 0 := by
    rw [← BitVec.toNat_inj, BitVec.toNat_and, BitVec.toNat_ushiftRight, Nat.shiftRight_eq_div_pow]
    exact iff_of_eq (congrArg (· = 0) (Nat.and_two_pow_sub_one_eq_mod (w.toNat / 64) 2))
  have hbit : ∀ i, w.getLsbD i = true ↔ w.toNat / 2 ^ i % 2 = 1 := fun i => by
    rw [BitVec.getLsbD, Nat.testBit_eq_decide_div_mod_eq, decide_eq_true_eq]
  simp only [Malformed, ne_eq, hop, hhigh, hquality, hbit, field]
  simp only [BitVec.toNat_ofNat]
  omega

/-- The decoder refuses exactly the malformed words (30_encoding.md R105, R106). -/
theorem decode_error_iff (w : Word) : (∃ e, decode w = .error e) ↔ Malformed w := by
  rw [malformed_iff]
  unfold decode
  split
  · next h => simp [h]
  · split
    · next h1 => split <;> simp_all
    · split
      · next h2 => split <;> simp_all
      · simp_all

/-- The bytes of a word spell the word (20_memory.md R77). -/
theorem natOfBytes_bytesOfWord (w : Word) : natOfBytes (bytesOfWord w) = w.toNat := by
  have hw := w.isLt
  rw [bytesOfWord, show List.range 8 = [0, 1, 2, 3, 4, 5, 6, 7] from rfl]
  simp only [field, List.map_cons, List.map_nil, natOfBytes, BitVec.toNat_ofNat, Nat.reduceMul, Nat.reduceAdd,
    Nat.reduceSub]
  omega

/-- Decoding the bytes of a word is decoding the word. -/
theorem decodeBytes_bytesOfWord (w : Word) : decodeBytes (bytesOfWord w) = decode w := by
  have hlen : (bytesOfWord w).length = 8 := rfl
  rw [decodeBytes, if_pos hlen, natOfBytes_bytesOfWord, BitVec.ofNat_toNat, BitVec.setWidth_eq]

/-- A table word decodes as the word of its bits does. -/
theorem decodeTableWord_eq_some {nbits w : Nat} {i : Instr} :
    decodeTableWord nbits w = some i ↔ decode (BitVec.ofNat 64 (w % 2 ^ nbits)) = .ok i := by
  rw [decodeTableWord, decodeBytes_bytesOfWord]
  cases decode (BitVec.ofNat 64 (w % 2 ^ nbits)) <;> simp

end Sys2Proof.Machine
end

section
/-! PROOFS. The register bus: what a step answers to an access of an idle block, of one whose command has time left and
of one that waits on a port (spec/20_memory.md R76, R79, spec/10_state.md R32 to R39). -/

namespace Sys2Proof.Machine

/-! ## The three conditions of the block -/

section
variable {s u : State} {i : Instr}

theorem step_idle (h : s.running = none) : step s = serveIdle s := by
  simp [step, advance, h]

theorem step_counting {n : Nat} (h : s.running = some i) (hleft : s.busyLeft = n + 1) :
    step s = .next (serveWhileBusy { s with busyLeft := n }) := by
  simp [step, advance, h, hleft]

/-- A command that waits is a PROCESS, and the state it waits in is the one it was tried from. -/
theorem State.WaitsAs.eq (h : s.WaitsAs i u) : u = s := by
  obtain ⟨hr, hleft, he, hne⟩ := h
  have hwait : ∀ j, i = j → u = s.waitPort j → u = s := by
    rintro j rfl rfl
    rw [State.waitPort, ← hr, ← hleft]
  cases i with
  | config quality interp =>
    obtain ⟨-, rfl⟩ | ⟨-, code, -, rfl⟩ | ⟨-, q, z, -, rfl⟩ := execConfig_cases he <;> exact absurd rfl hne
  | process last =>
    obtain ⟨code, -, rfl⟩ | ⟨-, w, -, rfl⟩ | ⟨-, cause, w, -, rfl⟩ | ⟨-, w, -, hu⟩ := execProcess_cases he
    · exact absurd rfl hne
    · exact absurd rfl hne
    · exact absurd rfl hne
    · exact hwait _ rfl hu

/-- A block that waits serves the platform in between (70_reset_and_hazards.md R276). -/
theorem step_waiting (h : s.WaitsAs i u) : step s = .next (serveWhileBusy s) := by
  obtain rfl := h.eq
  obtain ⟨hr, hleft, he, hne⟩ := h
  have hb : u.busy = true := Option.isSome_iff_ne_none.mpr hne
  simp [step, advance, hr, hleft, completeCommand, he, hb]

end

/-! ## Registers -/

theorem regAt_eq_cmd_iff {k : Nat} : regAt (8 * k) = .cmd ↔ k = 0 := by
  rw [regAt, Nat.mul_div_cancel_left k (by decide)]
  split <;> simp_all

/-- The table of 10_state.md R32 ends with PARAM. -/
theorem regAt_of_le {k : Nat} (h : 22 ≤ k) : regAt (8 * k) = .reserved := by
  obtain ⟨j, rfl⟩ : ∃ j, k = j + 22 := ⟨k - 22, by omega⟩
  rw [regAt, Nat.mul_div_cancel_left _ (by decide)]
  rfl

/-- A read of an idle block goes by the table of 10_state.md R32. -/
theorem readReg_regAt (s : State) {k : Nat} (hk : k < 32) :
    s.readReg (regAt (8 * k)) = (s.registerTable.lookup (8 * k)).getD 0#64 := by
  interval_cases k <;> rfl

/-- A write leaves what no operand register holds. -/
theorem writeReg_of_readOnly (s : State) (v : Word) {k : Nat} (h : k = 1 ∨ 7 ≤ k ∧ k < 32) :
    s.writeReg (regAt (8 * k)) v = s := by
  obtain rfl | ⟨h7, h32⟩ := h
  · rfl
  · interval_cases k <;> rfl

/-! ## Accesses of an idle block -/

section
variable {s : State} {k : Nat} {v : Word} {rest : List HostEvent}

theorem step_read (hk : k < 32) (hr : s.running = none) (hbus : s.bus = .read 8 (s.params.regBase + 8 * k) :: rest) :
    step s = .next { s with bus := rest, answer := some (.value (s.readReg (regAt (8 * k)))) } := by
  rw [step_idle hr]
  simp only [serveIdle, hbus, readAccess, accessed_window s.params hk]
  cases regAt (8 * k) <;> rfl

/-- A write of CMD hands the word to the decoder. -/
theorem step_write_cmd (hr : s.running = none) (hbus : s.bus = .write 8 s.params.regBase v :: rest) :
    step s = startCommand v { s with bus := rest, answer := some .written } := by
  have hacc : accessed s.params 8 s.params.regBase = some .cmd := accessed_window s.params (k := 0) (by decide)
  rw [step_idle hr]
  simp only [serveIdle, hbus, writeAccess, hacc]

theorem step_write (hk : k < 32) (h0 : k ≠ 0) (hr : s.running = none)
    (hbus : s.bus = .write 8 (s.params.regBase + 8 * k) v :: rest) :
    step s = .next { s.writeReg (regAt (8 * k)) v with bus := rest, answer := some .written } := by
  have hcmd : regAt (8 * k) ≠ .cmd := fun h => h0 (regAt_eq_cmd_iff.mp h)
  rw [step_idle hr]
  simp only [serveIdle, hbus, writeAccess, accessed_window s.params hk]
  cases hreg : regAt (8 * k)
  case cmd => exact absurd hreg hcmd
  all_goals rfl

theorem core_run_two {t u : State} (h : step s = .next t) (h' : step t = .next u) :
    Sys2Proof.core.run 2 s = .next u :=
  (core_run_succ h 1).trans (core_run_succ h' 0)

/-- A write of a register and the read after it. -/
theorem run_write_read (hk : k < 32) (h0 : k ≠ 0) (hr : s.running = none) (hbus : s.bus =
      .write 8 (s.params.regBase + 8 * k) v :: .read 8 (s.params.regBase + 8 * k) :: rest) :
    Sys2Proof.core.run 2 s = .next { s.writeReg (regAt (8 * k)) v with
      bus := rest, answer := some (.value ((s.writeReg (regAt (8 * k)) v).readReg (regAt (8 * k)))) } := by
  have hparams : (s.writeReg (regAt (8 * k)) v).params = s.params := by cases regAt (8 * k) <;> rfl
  have hrunning : (s.writeReg (regAt (8 * k)) v).running = s.running := by cases regAt (8 * k) <;> rfl
  refine core_run_two (step_write hk h0 hr hbus) ((step_read hk (s := { s.writeReg (regAt (8 * k)) v with
    bus := .read 8 (s.params.regBase + 8 * k) :: rest, answer := some .written }) (hrunning.trans hr)
    (by rw [hparams])).trans ?_)
  cases regAt (8 * k) <;> rfl

end

/-- Settles O10: an aligned offset names the register that stands there, and reading it changes only the answer. -/
theorem readAnswersTheRegister : Obligations.ReadAnswersTheRegister := by
  intro s k rest hk hr hbus
  rw [step_read hk hr hbus, readReg_regAt s hk]

/-- The low half of a word, as a count register stores and answers it (10_state.md R44, R45). -/
theorem setWidth_low (v : Word) : (v.setWidth 32).setWidth 64 = v &&& 0xFFFFFFFF#64 := by
  refine BitVec.eq_of_toNat_eq ?_
  rw [BitVec.toNat_setWidth, BitVec.toNat_setWidth, BitVec.toNat_and, Nat.mod_eq_of_lt (by omega)]
  exact (Nat.and_two_pow_sub_one_eq_mod v.toNat 32).symm

/-- Settles O11: only the operand registers store a write, and the next read answers what they store. -/
theorem writesStoreTheOperandsOnly : Obligations.WritesStoreTheOperandsOnly := by
  intro s v rest hr
  refine ⟨fun hbus => run_write_read (k := 2) (by decide) (by decide) hr hbus,
    fun hbus => run_write_read (k := 3) (by decide) (by decide) hr hbus,
    fun hbus => run_write_read (k := 4) (by decide) (by decide) hr hbus, fun hbus => ?_, fun hbus => ?_,
    fun k hk hbus => ?_⟩
  · rw [← setWidth_low]
    exact run_write_read (k := 5) (by decide) (by decide) hr hbus
  · rw [← setWidth_low]
    exact run_write_read (k := 6) (by decide) (by decide) hr hbus
  · rw [step_write (by omega) (by omega) hr hbus, writeReg_of_readOnly s v hk]

/-! ## Commands -/

/-- Settles O3: the decoder's refusals are the conditions of R105, and a refused word is answered at once. -/
theorem malformedWordChangesOnlyErr : Obligations.MalformedWordChangesOnlyErr := by
  refine fun w => ⟨decode_error_iff w, fun s rest hr hbus hw => ?_⟩
  obtain ⟨e, he⟩ := (decode_error_iff w).mpr hw
  rw [step_write_cmd hr hbus, startCommand, he]
  simp [State.raiseErr, hr]

section
variable {s : State} {w : Word} {i : Instr}

theorem startCommand_of_no_latency (hw : decode w = .ok i) (hl : s.latencies = []) : startCommand w s = exec i s := by
  simp [startCommand, hw, hl]

theorem startCommand_at_once {later : List Nat} (hw : decode w = .ok i) (hl : s.latencies = 0 :: later) :
    startCommand w s = exec i { s with latencies := later } := by
  simp [startCommand, hw, hl]

theorem startCommand_delayed {d : Nat} {later : List Nat} (hw : decode w = .ok i)
    (hl : s.latencies = (d + 1) :: later) :
    startCommand w s = .next { s with running := some i, busyLeft := d + 1, latencies := later } := by
  simp [startCommand, hw, hl]

end

/-- Settles O5: the decoded command runs at once or, by its duration, begins to. -/
theorem stepRunsDecodedCommand : Obligations.StepRunsDecodedCommand := by
  refine ⟨fun s w rest i hr hbus hw => ⟨fun hl => ?_, fun later hl => ?_, fun d later hl => ?_⟩,
    fun s nbits w i _ hw => ?_⟩
  · exact (step_write_cmd hr hbus).trans (startCommand_of_no_latency hw hl)
  · exact (step_write_cmd hr hbus).trans (startCommand_at_once hw hl)
  · exact (step_write_cmd hr hbus).trans (startCommand_delayed hw hl)
  · exact (step_write_cmd (s := s.withFetchWord nbits w) rfl rfl).trans
      (startCommand_at_once (decodeTableWord_eq_some.mp hw) rfl)

/-! ## Accesses of a busy block -/

section
variable {s : State} {k : Nat} {rest : List HostEvent}

theorem serveWhileBusy_read (hk : k < 32) (hbus : s.bus = .read 8 (s.params.regBase + 8 * k) :: rest) :
    serveWhileBusy s = { s with
      bus := rest
      answer := some (.value (s.readRegWhileBusy (Config.freeWord s.freeCount) (regAt (8 * k))))
      freeCount := s.freeCount + 1 } := by
  simp only [serveWhileBusy, hbus, readWhileBusy, accessed_window s.params hk]
  cases regAt (8 * k) <;> rfl

theorem serveWhileBusy_write {v : Word} (hk : k < 32)
    (hbus : s.bus = .write 8 (s.params.regBase + 8 * k) v :: rest) :
    serveWhileBusy s = { s with bus := rest, answer := some .written, overrun := true } := by
  simp only [serveWhileBusy, hbus, writeWhileBusy, accessed_window s.params hk]

/-- A read while a command runs has the fixed fields right, whatever the free value is. -/
theorem readRegWhileBusy_answer {i : Instr} (hr : s.running = some i) (v : Word) :
    s.BusyAnswer i k (s.readRegWhileBusy v (regAt (8 * k))) := by
  refine ⟨?_, ?_, ?_, ?_⟩
  · rintro rfl
    have hbusy : s.busy = true := by rw [State.busy, hr]; rfl
    obtain ⟨-, hb, -, -, hfault, hoverrun, hlow, -, hstate, hbit, -, hlt⟩ := statusWord_layout (v.getLsbD 0) s.busy
      (v.getLsbD 2) (v.getLsbD 3) s.fault.isSome s.overrun (v.toNat / 2 ^ 8) s.engineState.code (v.toNat / 2 ^ 16)
    refine ⟨hb.trans hbusy, hfault, hoverrun, hlow, hstate.trans ?_, hbit, hlt⟩
    rw [Nat.mod_eq_of_lt s.engineState.code_lt]
    cases hf : s.fault with
    | some cause => rw [engineState_of_fault (by simp [hf])]; rfl
    | none =>
      cases i with
      | config quality interp => rw [engineState_of_config hf hr]; rfl
      | process last => rw [engineState_of_process hf hr]; rfl
  · rintro (rfl | h)
    · rfl
    · rw [regAt_of_le h]
      rfl
  · rintro rfl
    rfl
  · rintro rfl
    rfl

end

/-- Settles O13: a busy block frees only the registers that R63 leaves open. -/
theorem busyReadKeepsTheFixedFields : Obligations.BusyReadKeepsTheFixedFields := by
  refine fun s i k rest hk hbus => ⟨fun n hr hleft => ?_, fun u hwait => ?_⟩
  · exact ⟨_, readRegWhileBusy_answer (s := { s with busyLeft := n }) hr _,
      (step_counting hr hleft).trans (congrArg _ (serveWhileBusy_read hk hbus))⟩
  · obtain rfl := hwait.eq
    exact ⟨_, readRegWhileBusy_answer hwait.1 _, (step_waiting hwait).trans (congrArg _ (serveWhileBusy_read hk hbus))⟩

end Sys2Proof.Machine
end

section
/-! PROOFS. What a step can do to the block, said once, and the invariants of every step that follow from it
(spec/10_state.md R39, R65 to R69, spec/20_memory.md R76, R90). -/

namespace Sys2Proof.Machine

/-! ## The block apart from its surroundings -/

/-- The block's own part of the state: the operands, the running command and ERR, which the host's accesses set, and
what stands at the pins are blanked out. -/
def State.engine (s : State) : State :=
  { s with
    opMinFactor := 0#64, opMaxFactor := 0#64, opFactor := 0#64, opInCount := 0#32, opOutRoom := 0#32
    running := none, err := .ok, inPort := [], outReady := none, bus := [], answer := none, latencies := []
    busyLeft := 0, freeCount := 0 }

/-- The configuration, the stream, the results, the flags but BUSY and ERR, and the memories are the same. -/
abbrev SameEngine (s t : State) : Prop := t.engine = s.engine

/-- What the block's own part decides holds of both states. -/
theorem SameEngine.transport {P : State → Prop} {s t : State} (h : SameEngine s t) (hP : ∀ a : State, P a ↔ P a.engine)
    (hs : P s) : P t :=
  (hP t).mpr (h ▸ (hP s).mp hs)

theorem SameEngine.params {s t : State} (h : SameEngine s t) : t.params = s.params :=
  h.transport (P := (·.params = s.params)) (fun _ => Iff.rfl) rfl

theorem SameEngine.overrun {s t : State} (h : SameEngine s t) : t.overrun = s.overrun :=
  h.transport (P := (·.overrun = s.overrun)) (fun _ => Iff.rfl) rfl

/-- The next event is a write of a register. -/
def State.writeNext (s : State) : Prop :=
  ∃ k v rest, k < 32 ∧ s.bus = .write 8 (s.params.regBase + 8 * k) v :: rest

/-- The step that `s` takes runs command `i`: at once, or at the end of its duration. -/
def State.Runs (s : State) (i : Instr) : Prop :=
  s.running = some i ∧ s.busyLeft = 0 ∨
  s.running = none ∧ ∃ w rest, s.bus = .write 8 s.params.regBase w :: rest ∧ decode w = .ok i

/-- What serving an event of the platform can do to the block: nothing, the record of a dropped write, or a reset. -/
inductive Served (s : State) : State → Prop where
  | quiet {t : State} (h : SameEngine s t) : Served s t
  | dropped {t : State} (hbusy : s.running.isSome = true) (hw : s.writeNext)
      (h : SameEngine { s with overrun := true } t) : Served s t
  | reset {u : State} (hr : s.resetNext) (h : SameEngine s u) : Served s u.resetInput

/-- An access that is not refused is to a register of the window. -/
theorem accessed_eq_some {p : Params} {width address : Nat} {r : Reg} (h : accessed p width address = some r) :
    width = 8 ∧ ∃ k < 32, address = p.regBase + 8 * k ∧ r = regAt (8 * k) := by
  unfold accessed at h
  split at h
  · next hin =>
    obtain ⟨hwidth, hbase, halign, hend⟩ := hin
    refine ⟨hwidth, (address - p.regBase) / 8, by omega, by omega, ?_⟩
    rw [Nat.mul_div_cancel' (Nat.dvd_of_mod_eq_zero halign)]
    exact (Option.some.inj h).symm
  · simp at h

/-! ## Steps -/

theorem readAccess_sameEngine (width address : Nat) (s : State) : SameEngine s (readAccess width address s) := by
  unfold readAccess
  split <;> rfl

theorem readWhileBusy_sameEngine (width address : Nat) (s : State) : SameEngine s (readWhileBusy width address s) := by
  unfold readWhileBusy
  split <;> rfl

theorem writeReg_sameEngine (s : State) (r : Reg) (v : Word) : SameEngine s (s.writeReg r v) := by
  cases r <;> rfl

theorem served_of_next {s u t : State} (h : (.next u : Host.Outcome State Fault Refusal) = .next t)
    (hu : SameEngine s u) : Served s t :=
  Host.Outcome.next.inj h ▸ .quiet hu

/-- Serving an event while a command runs, from a state `u` that differs from `s` outside the block. -/
theorem serveWhileBusy_served {s u : State} (hbusy : s.running.isSome = true) (hu : SameEngine s u)
    (hbus : u.bus = s.bus) : Served s (serveWhileBusy u) := by
  have hparams := hu.params
  unfold serveWhileBusy
  cases hb : u.bus with
  | nil => exact .quiet hu
  | cons e rest =>
    cases e with
    | read width address => exact .quiet ((readWhileBusy_sameEngine ..).trans hu)
    | write width address v =>
      dsimp only
      unfold writeWhileBusy
      split
      · exact .quiet hu
      · next r hacc =>
        obtain ⟨rfl, k, hk, rfl, -⟩ := accessed_eq_some hacc
        exact .dropped hbusy ⟨k, v, rest, hk, by rw [← hbus, hb, ← hparams]⟩
          (congrArg ({ · with overrun := true }) hu)
    | offer samples => exact .quiet hu
    | accept ready => exact .quiet hu
    | reset => exact .reset ⟨rest, by rw [← hbus, hb]⟩ hu

/-- A word written to CMD is refused, begins a command's duration, or runs a command. -/
theorem startCommand_effect {s t : State} {w : Word} (h : startCommand w s = .next t) :
    SameEngine s t ∨ ∃ i u, decode w = .ok i ∧ SameEngine s u ∧ exec i u = .next t := by
  unfold startCommand at h
  split at h
  · exact .inl (Host.Outcome.next.inj h ▸ rfl)
  · next i hw =>
    split at h
    · exact .inr ⟨i, s, hw, rfl, h⟩
    · exact .inr ⟨i, _, hw, by rfl, h⟩
    · exact .inl (Host.Outcome.next.inj h ▸ rfl)

/-- Serving an event in an idle block may also run a command. -/
theorem serveIdle_effect {s t : State} (hr : s.running = none) (h : serveIdle s = .next t) :
    Served s t ∨ ∃ i u, s.Runs i ∧ SameEngine s u ∧ exec i u = .next t := by
  unfold serveIdle at h
  cases hb : s.bus with
  | nil =>
    rw [hb] at h
    exact .inl (served_of_next h rfl)
  | cons e rest =>
    rw [hb] at h
    cases e with
    | read width address => exact .inl (served_of_next h (readAccess_sameEngine ..))
    | write width address v =>
      dsimp only at h
      unfold writeAccess at h
      split at h
      · exact .inl (served_of_next h rfl)
      · next hacc =>
        obtain ⟨rfl, k, -, rfl, hk⟩ := accessed_eq_some hacc
        obtain rfl := regAt_eq_cmd_iff.mp hk.symm
        obtain hsame | ⟨i, u, hw, hu, he⟩ := startCommand_effect h
        · exact .inl (.quiet hsame)
        · exact .inr ⟨i, u, .inr ⟨hr, v, rest, hb, hw⟩, hu, he⟩
      · exact .inl (served_of_next h (writeReg_sameEngine ..))
    | offer samples => exact .inl (served_of_next h rfl)
    | accept ready => exact .inl (served_of_next h rfl)
    | reset =>
      obtain rfl := Host.Outcome.next.inj h
      exact .inl (.reset ⟨rest, hb⟩ rfl)

/-- Everything a step can do to the block: it serves an event, or it runs a command. -/
theorem step_effect {s t : State} (h : step s = .next t) :
    Served s t ∨ ∃ i u, s.Runs i ∧ SameEngine s u ∧ exec i u = .next t := by
  obtain ⟨hr, hstep⟩ | ⟨i, hr, hleft, hstep⟩ | ⟨i, hr, -, hstep⟩ := step_cases s <;> rw [hstep] at h
  · exact serveIdle_effect hr h
  · obtain ⟨u, he, rfl⟩ := completeCommand_next h
    split
    · next hb =>
      obtain rfl := State.WaitsAs.eq ⟨hr, hleft, he, Option.isSome_iff_ne_none.mp hb⟩
      exact .inl (serveWhileBusy_served hb rfl rfl)
    · exact .inr ⟨i, s, .inl ⟨hr, hleft⟩, rfl, he⟩
  · obtain rfl := Host.Outcome.next.inj h
    exact .inl (serveWhileBusy_served (by rw [hr]; rfl) rfl rfl)

/-! ## OVERRUN -/

/-- No command changes the parameters or OVERRUN. -/
theorem exec_frame {i : Instr} {s t : State} (h : exec i s = .next t) :
    t.params = s.params ∧ t.overrun = s.overrun := by
  cases i with
  | config quality interp =>
    obtain ⟨-, -, hparams, hoverrun, -⟩ := configFrame s t quality interp h
    exact ⟨hparams, hoverrun⟩
  | process last =>
    obtain ⟨⟨-, -, -, -, -, -, -, -, -, hparams⟩, -, hoverrun, -⟩ := execProcess_frame h
    exact ⟨hparams, hoverrun⟩

/-- A step keeps OVERRUN unless it drops a write or serves a reset. -/
theorem step_overrun {s t : State} (h : step s = .next t) :
    t.overrun = s.overrun ∨ (s.running.isSome = true ∧ s.writeNext ∧ t.overrun = true) ∨
      (s.resetNext ∧ t.overrun = false) := by
  obtain hserved | ⟨i, u, -, hu, he⟩ := step_effect h
  · cases hserved with
    | quiet hsame => exact .inl hsame.overrun
    | dropped hbusy hw hsame => exact .inr (.inl ⟨hbusy, hw, hsame.overrun⟩)
    | reset hr _ => exact .inr (.inr ⟨hr, rfl⟩)
  · exact .inl ((exec_frame he).2.trans hu.overrun)

/-- Settles O12: a busy block drops a write and records it, and no other step but a reset touches OVERRUN. -/
theorem overrunRecordsDroppedWrites : Obligations.OverrunRecordsDroppedWrites := by
  refine ⟨fun s i k n v rest hr hleft hk hbus => ?_, fun s u i k v rest hwait hk hbus => ?_, fun s t h ho => ?_,
    fun s t h ho ht => ?_, fun _ => rfl⟩
  · exact (step_counting hr hleft).trans (congrArg _ (serveWhileBusy_write hk hbus))
  · obtain rfl := hwait.eq
    exact (step_waiting hwait).trans (congrArg _ (serveWhileBusy_write hk hbus))
  · obtain hsame | ⟨-, -, htrue⟩ | ⟨hreset, -⟩ := step_overrun h
    · exact .inl (hsame.trans ho)
    · exact .inl htrue
    · exact .inr hreset
  · obtain hsame | ⟨hbusy, hw, -⟩ | ⟨-, hfalse⟩ := step_overrun h
    · simp [hsame, ho] at ht
    · exact ⟨hbusy, hw⟩
    · simp [hfalse] at ht

/-! ## The configuration -/

/-- Settles O57: the steps that reach the configuration registers run CONFIG or serve a reset. -/
theorem onlyConfigAndResetChangeTheConfiguration : Obligations.OnlyConfigAndResetChangeTheConfiguration := by
  refine ⟨fun s t last h => (execProcess_frame h).1, fun s t h => ?_, fun s t h => ?_⟩
  · have hself : SameConfiguration s s := ⟨rfl, rfl, rfl, rfl, rfl, rfl, rfl, rfl, rfl, rfl⟩
    obtain hserved | ⟨i, u, hruns, hu, he⟩ := step_effect h
    · cases hserved with
      | quiet hsame => exact .inl (hsame.transport (fun _ => Iff.rfl) hself)
      | dropped _ _ hsame => exact .inl (hsame.transport (fun _ => Iff.rfl) hself)
      | reset hr _ => exact .inr (.inr hr)
    · cases i with
      | config quality interp =>
        obtain ⟨hr, hleft⟩ | ⟨hr, w, rest, hb, hw⟩ := hruns
        · exact .inr (.inl (.inl ⟨quality, interp, hr, hleft⟩))
        · exact .inr (.inl (.inr ⟨hr, w, rest, quality, interp, hb, hw⟩))
      | process last =>
        have hconf := (execProcess_frame he).1
        exact .inl (SameEngine.transport (P := (SameConfiguration · t)) hu.symm (fun _ => Iff.rfl) hconf)
  · obtain hserved | ⟨i, u, -, hu, he⟩ := step_effect h
    · cases hserved with
      | quiet hsame => exact hsame.params
      | dropped _ _ hsame => exact hsame.params
      | reset _ hsame => exact hsame.params
    · exact (exec_frame he).1.trans hu.params

/-! ## The invariants between commands -/

/-- The invariant speaks of the block's own part of the state. -/
theorem streamInv_engine (s : State) : s.StreamInv ↔ s.engine.StreamInv := Iff.rfl

/-- Settles O54: an event leaves the block's own part alone or resets it, and both commands keep the invariant. -/
theorem stepKeepsStreamInvariant : Obligations.StepKeepsStreamInvariant := by
  intro s t hs h
  obtain hserved | ⟨i, u, -, hu, he⟩ := step_effect h
  · cases hserved with
    | quiet hsame => exact hsame.transport streamInv_engine hs
    | dropped _ _ hsame => exact hsame.transport (s := { s with overrun := true }) streamInv_engine hs
    | reset _ hsame => exact streamInv_of_unconfigured (hsame.transport streamInv_engine hs).1 rfl rfl rfl
  · exact exec_keeps_streamInv (hu.transport streamInv_engine hs) he

end Sys2Proof.Machine
end

section
/-! PROOFS. The loops of the kernel and of PROCESS end by themselves: their bounds in the model do not decide
(spec/20_memory.md R83, R85, spec/70_reset_and_hazards.md R275, notes/assumptions/15.md). -/

namespace Sys2Proof.Machine

/-! ## The loop over the taps of a wing -/

/-- The loop that FILTER_UP and FILTER_UD share: it adds tap `j`, `j + 1`, … while there is `more`, and at most `room`
of them (41_filter_kernel.md R160, R164). -/
def tapLoop (more : Nat → Bool) (tap : Nat → Option Sample) : (room j : Nat) → Sample → Option Sample
  | 0, j, v => if more j then none else some v
  | room + 1, j, v => if more j then (tap j).bind fun t => tapLoop more tap room (j + 1) (f32Add v t) else some v

/-- The loop of FILTER_UP as a loop over taps, from table position `h` at tap 0. -/
theorem filterUpFrom_eq_tapLoop (c : Call) (x : Memory) (wing : Wing) (i : Int) (a32 : Sample) (h : Nat) :
    ∀ (room j : Nat) (v : Sample), filterUpFrom c x wing i a32 room (h + j * c.params.npc) j v =
      tapLoop (fun j => h + j * c.params.npc < wing.tapEnd c.nwing)
        (fun j => tapProduct c x wing i j (h + j * c.params.npc) a32) room j v
  | 0, j, v => by simp [filterUpFrom, tapLoop]
  | room + 1, j, v => by
    have ih := filterUpFrom_eq_tapLoop c x wing i a32 h room (j + 1)
    rw [Nat.succ_mul, ← Nat.add_assoc] at ih
    simp only [filterUpFrom, tapLoop, decide_eq_true_eq]
    cases tapProduct c x wing i j (h + j * c.params.npc) a32 with
    | none => rfl
    | some t => simp only [ih, Option.bind_some]

/-- The loop of FILTER_UD as a loop over taps, from table position `ho` at tap 0. -/
theorem filterUdFrom_eq_tapLoop (c : Call) (x : Memory) (wing : Wing) (i : Int) (dh ho : Nat) :
    ∀ (room j : Nat) (v : Sample), filterUdFrom c x wing i dh room (ho + j * dh) j v =
      tapLoop (fun j => (ho + j * dh) / 2 ^ 32 < wing.tapEnd c.nwing)
        (fun j => tapProduct c x wing i j ((ho + j * dh) / 2 ^ 32) (f32OfRatio ((ho + j * dh) % 2 ^ 32) (2 ^ 32)))
        room j v
  | 0, j, v => by simp [filterUdFrom, tapLoop]
  | room + 1, j, v => by
    have ih := filterUdFrom_eq_tapLoop c x wing i dh ho room (j + 1)
    rw [Nat.succ_mul, ← Nat.add_assoc] at ih
    simp only [filterUdFrom, tapLoop, decide_eq_true_eq]
    cases tapProduct c x wing i j ((ho + j * dh) / 2 ^ 32) (f32OfRatio ((ho + j * dh) % 2 ^ 32) (2 ^ 32)) with
    | none => rfl
    | some t => simp only [ih, Option.bind_some]

section
variable {more : Nat → Bool} {tap tap' : Nat → Option Sample}

/-- A loop that ends by itself within `n` taps gives the same with any larger bound. -/
theorem tapLoop_bound {n : Nat} : ∀ {room j : Nat} {v : Sample}, n ≤ room →
    (∃ k, j ≤ k ∧ k ≤ j + n ∧ (more k = false ∨ tap k = none)) →
    tapLoop more tap room j v = tapLoop more tap n j v := by
  induction n with
  | zero =>
    rintro room j v - ⟨k, hjk, hkj, hend⟩
    obtain rfl : k = j := by omega
    cases room with
    | zero => rfl
    | succ room => obtain h | h := hend <;> simp [tapLoop, h]
  | succ n ih =>
    rintro (_ | room) j v hroom ⟨k, hjk, hkj, hend⟩
    · omega
    simp only [tapLoop]
    by_cases hmore : more j = true
    · cases ht : tap j with
      | none => rfl
      | some t =>
        have hne : k ≠ j := by rintro rfl; simp [hmore, ht] at hend
        have htail := ih (j := j + 1) (v := f32Add v t) (Nat.le_of_succ_le_succ hroom) ⟨k, by omega, by omega, hend⟩
        simp only [Option.bind_some, htail]
    · simp [hmore]

/-- The loop uses no tap past its bound. -/
theorem tapLoop_congr {n : Nat} : ∀ {j : Nat} {v : Sample}, (∀ k, j ≤ k → k < j + n → tap k = tap' k) →
    tapLoop more tap n j v = tapLoop more tap' n j v := by
  induction n with
  | zero => exact fun _ => rfl
  | succ n ih =>
    intro j v h
    have htail := fun t => ih (j := j + 1) (v := f32Add v t) fun k hk hk' => h k (by omega) (by omega)
    simp only [tapLoop, h j le_rfl (by omega), htail]

/-- The loop has a sum when every tap before its end has a product. -/
theorem tapLoop_isSome {n : Nat} : ∀ {j : Nat} {v : Sample}, more (j + n) = false →
    (∀ k, j ≤ k → k < j + n → more k = true → (tap k).isSome = true) →
    (tapLoop more tap n j v).isSome = true := by
  induction n with
  | zero =>
    intro j v hend _
    rw [Nat.add_zero] at hend
    simp [tapLoop, hend]
  | succ n ih =>
    intro j v hend h
    simp only [tapLoop]
    split
    · next hmore =>
      obtain ⟨t, ht⟩ := Option.isSome_iff_exists.mp (h j le_rfl (by omega) hmore)
      rw [ht, Option.bind_some]
      exact ih (by rwa [show j + 1 + n = j + (n + 1) by omega]) fun k hk hk' => h k (by omega) (by omega)
    · rfl

end

/-- Of as many neighbouring words of X as are in use and one more, one is out of range (20_memory.md R83). -/
theorem exists_xRead_eq_none (c : Call) (x : Memory) (wing : Wing) (i : Int) :
    ∃ k ≤ c.limit, xRead c x (i + wing.dir * k) = none := by
  have hout : ∀ a : Int, ¬ (0 ≤ a ∧ a < c.limit) → xRead c x a = none := fun a h => if_neg h
  by_cases hi : 0 ≤ i ∧ i < c.limit
  · cases wing with
    | left => exact ⟨i.toNat + 1, by omega, hout _ (by simp only [Wing.dir]; omega)⟩
    | right => exact ⟨c.limit, le_rfl, hout _ (by simp only [Wing.dir]; omega)⟩
  · exact ⟨0, Nat.zero_le _, hout _ (by simpa using hi)⟩

theorem tapProduct_eq_none {c : Call} {x : Memory} {wing : Wing} {i : Int} {j : Nat}
    (h : xRead c x (i + wing.dir * j) = none) (pos : Nat) (a32 : Sample) : tapProduct c x wing i j pos a32 = none := by
  unfold tapProduct
  rw [h]
  cases tapWeight c pos a32 <;> rfl

/-- The loop over the taps of a wing ends within as many taps as words of X are in use, wherever they stand in the
table. -/
theorem tapLoop_limit {c : Call} {room : Nat} (hroom : c.limit ≤ room) (x : Memory) (wing : Wing) (i : Int)
    (more : Nat → Bool) (pos : Nat → Nat) (a32 : Nat → Sample) (v : Sample) :
    tapLoop more (fun j => tapProduct c x wing i j (pos j) (a32 j)) room 0 v =
      tapLoop more (fun j => tapProduct c x wing i j (pos j) (a32 j)) c.limit 0 v := by
  obtain ⟨k, hk, hnone⟩ := exists_xRead_eq_none c x wing i
  exact tapLoop_bound hroom ⟨k, Nat.zero_le k, by omega, .inr (tapProduct_eq_none hnone _ _)⟩

/-! ## The loop of a pass -/

theorem passOne_done_nout {c : Call} {w w' : Work} (h : passOne c w = .done w') :
    w.nout < c.ysize ∧ w'.nout = w.nout + 1 := by
  obtain ⟨hlt, v, rfl⟩ := passOne_done h
  exact ⟨hlt, rfl⟩

/-- A pass ends within the samples that YSIZE leaves room for, by the sample that does not fit if by nothing else. -/
theorem passFrom_bound {c : Call} {bound n : Nat} : ∀ {slots : Nat} {w : Work}, n ≤ slots →
    c.ysize < w.nout + n → w.nout ≤ c.ysize → passFrom c bound slots w = passFrom c bound n w := by
  induction n with
  | zero => intro slots w _ hlt hle; omega
  | succ n ih =>
    rintro (_ | slots) w hslots hlt hle
    · omega
    simp only [passFrom]
    split
    · cases hone : passOne c w with
      | done w1 =>
        obtain ⟨hroom, hnout⟩ := passOne_done_nout hone
        exact ih (by omega) (by omega) (by omega)
      | fault cause w1 => rfl
      | stall w1 => rfl
    · rfl

/-! ## The loop over the passes -/

/-- A pass and the retiring after it take no sample, and leave before the new cursor at least NX words less in X. -/
theorem passAndDrain_done_cursor {c : Call} {nx : Nat} {w w' : Work} (h : passAndDrain c nx w = .done w')
    (hxp : w.xp = c.xoff) : w'.xp = c.xoff ∧ w'.xread + nx ≤ max w.xread nx ∧ w'.used = w.used := by
  unfold passAndDrain at h
  obtain ⟨w1, h1, h⟩ := Run.andThen_eq_done.mp h
  obtain ⟨w2, h2, h⟩ := Run.andThen_eq_done.mp h
  obtain ⟨y, -, hw1, -, -, hbound, -⟩ := pass_done h1
  obtain ⟨time, creep, -, -, -, hcursor⟩ := retireCursor_rebases hbound
  rw [hcursor] at h2
  obtain ⟨x, -, hw2⟩ := retireShift_done h2
  obtain ⟨y', out, -, -, rfl⟩ := drain_done h
  rw [hw2, hw1]
  refine ⟨rfl, ?_, by simp [Work.used_eq]⟩
  dsimp only
  omega

/-- PROCESS goes on after a pass only if it took a sample: X was filled up, and the whole offer was not needed
(42_engine.md R202, 70_reset_and_hazards.md R275). Hence the passes end within one for each sample left. -/
theorem passes_bound {c : Call} (hsize : 2 * c.xoff < c.xsize) {n : Nat} : ∀ {bound : Nat} {w : Work}, n ≤ bound →
    c.n < w.used + n → w.used ≤ c.n → w.xp = c.xoff → w.xread < c.xsize →
    passes c bound w = passes c n w := by
  induction n with
  | zero => intro bound w _ hlt hle; omega
  | succ n ih =>
    rintro (_ | bound) w hbound hlt hle hxp hxread
    · omega
    simp only [passes]
    cases h1 : pullAndPad c w with
    | fault cause w1 => rfl
    | stall w1 => rfl
    | done w1 =>
      obtain ⟨x, count, -, -, hcount, hw1⟩ := pullAndPad_done h1
      have hused1 : w1.used = w.used + count := by rw [hw1]; simp [Work.used_eq]
      have hxread1 : w1.xread = w.xread + count := by rw [hw1]
      have hxp1 : w1.xp = c.xoff := by rw [hw1]; exact hxp
      simp only [Run.done_andThen]
      split
      · rfl
      · cases h2 : passAndDrain c (eligible c (finalBatch c w1) w1).toNat w1 with
        | fault cause w2 => rfl
        | stall w2 => rfl
        | done w2 =>
          simp only [Run.done_andThen]
          split
          · rfl
          · next hgoes =>
            obtain ⟨hxp2, hxread2, hused2⟩ := passAndDrain_done_cursor h2 hxp1
            have hused : w2.used ≠ c.n := fun h => hgoes (stopsAfterPass_of_used h)
            have hnormal : finalBatch c w1 = false := by
              rw [← Bool.not_eq_true]
              exact fun h => hused (hused2.trans (used_of_finalBatch h))
            rw [hnormal, eligible, if_neg (by simp)] at hxread2
            exact ih (by omega) (by omega) (by omega) hxp2 (by omega)

/-- Settles O8: a tap out of range, a sample past YSIZE, or the end of the offer ends each loop before its
bound does. -/
theorem loopBoundsNeverDecide : Obligations.LoopBoundsNeverDecide := by
  refine ⟨fun c x wing i a32 v room h hroom => ?_, fun c x wing i dh v room ho hroom => ?_,
    fun c bound slots w hslots => ?_, fun c bound w hxp hxread hsize hused hbound => ?_⟩
  · have hloop := fun room => filterUpFrom_eq_tapLoop c x wing i a32 h room 0 v
    rw [Nat.zero_mul, Nat.add_zero] at hloop
    rw [hloop, hloop, tapLoop_limit hroom]
  · have hloop := fun room => filterUdFrom_eq_tapLoop c x wing i dh ho room 0 v
    rw [Nat.zero_mul, Nat.add_zero] at hloop
    rw [hloop, hloop, tapLoop_limit hroom]
  · exact passFrom_bound hslots (by dsimp only; omega) (Nat.zero_le _)
  · exact passes_bound hsize hbound (by unfold passBound; omega) hused hxp hxread

end Sys2Proof.Machine
end

section
/-! PROOFS. What SAMPLE depends on: the words of X within the reach of its taps, wherever they stand in X
(spec/41_filter_kernel.md R154 to R167, R171, spec/42_engine.md R216, R220). -/

namespace Sys2Proof.Machine

/-! ## Both modes as one loop over taps -/

/-- The step of a wing's taps through the table: NPC entries in UP mode, DH in UD mode, as UQ32.32. -/
def Call.step (c : Call) : Nat :=
  match c.mode with
  | .up => 2 ^ 32 * c.params.npc
  | .ud => c.dh

/-- Where tap `j` of a wing stands in the table, as UQ32.32 (41_filter_kernel.md R157, R161, R165). -/
def Call.tapPos (c : Call) (wing : Wing) (ph j : Nat) : Nat :=
  ph * c.step / 2 ^ 32 + (if wing = .right ∧ ph = 0 then c.step else 0) + j * c.step

/-- Whether tap `j` lies before the wing's end (41_filter_kernel.md R159). -/
def Call.more (c : Call) (wing : Wing) (ph j : Nat) : Bool := c.tapPos wing ph j / 2 ^ 32 < wing.tapEnd c.nwing

/-- The product of tap `j` (41_filter_kernel.md R160, R164). -/
def Call.tap (c : Call) (x : Memory) (wing : Wing) (i : Int) (ph j : Nat) : Option Sample :=
  tapProduct c x wing i j (c.tapPos wing ph j / 2 ^ 32) (f32OfRatio (c.tapPos wing ph j % 2 ^ 32) (2 ^ 32))

theorem filterUd_eq_tapLoop (c : Call) (x : Memory) (wing : Wing) (i : Int) (ph dh ho : Nat)
    (hho : ph * dh / 2 ^ 32 + (if wing = .right ∧ ph = 0 then dh else 0) = ho) :
    filterUd c x wing i ph dh =
      tapLoop (fun j => (ho + j * dh) / 2 ^ 32 < wing.tapEnd c.nwing)
        (fun j => tapProduct c x wing i j ((ho + j * dh) / 2 ^ 32) (f32OfRatio ((ho + j * dh) % 2 ^ 32) (2 ^ 32)))
        c.limit 0 Sample.zero := by
  subst hho
  rw [← filterUdFrom_eq_tapLoop, Nat.zero_mul]
  rfl

/-- With DH = NPC * 2^32 FILTER_UD is FILTER_UP (41_filter_kernel.md R171). -/
theorem filterUd_eq_filterUp (c : Call) (x : Memory) (wing : Wing) (i : Int) (ph : Nat) :
    filterUd c x wing i ph (2 ^ 32 * c.params.npc) = filterUp c x wing i ph := by
  have hph : ph * (2 ^ 32 * c.params.npc) / 2 ^ 32 = c.params.npc * ph := by
    rw [Nat.mul_left_comm, Nat.mul_div_cancel_left _ (by decide), Nat.mul_comm]
  have hup := filterUpFrom_eq_tapLoop c x wing i (f32OfRatio (c.params.npc * ph % 2 ^ 32) (2 ^ 32))
    (c.params.npc * ph / 2 ^ 32 + if wing = .right ∧ ph = 0 then c.params.npc else 0) c.limit 0 Sample.zero
  rw [Nat.zero_mul, Nat.add_zero] at hup
  rw [filterUd_eq_tapLoop c x wing i ph _ _ rfl, hph]
  refine Eq.trans ?_ hup.symm
  have hpos : ∀ j, c.params.npc * ph + (if wing = .right ∧ ph = 0 then 2 ^ 32 * c.params.npc else 0) +
      j * (2 ^ 32 * c.params.npc) =
      2 ^ 32 * ((if wing = .right ∧ ph = 0 then c.params.npc else 0) + j * c.params.npc) + c.params.npc * ph := by
    intro j
    split <;> ring
  have hdiv : ∀ j, (2 ^ 32 * ((if wing = .right ∧ ph = 0 then c.params.npc else 0) + j * c.params.npc) +
      c.params.npc * ph) / 2 ^ 32 =
      c.params.npc * ph / 2 ^ 32 + (if wing = .right ∧ ph = 0 then c.params.npc else 0) + j * c.params.npc := by
    intro j
    rw [Nat.mul_add_div (Nat.two_pow_pos 32)]
    omega
  simp only [hpos, hdiv, Nat.mul_add_mod]

/-- A wing's sum in either mode is the loop over its taps (41_filter_kernel.md R167). -/
theorem wingSum_eq_tapLoop (c : Call) (x : Memory) (wing : Wing) (i : Int) (ph : Nat) :
    wingSum c x wing i ph = tapLoop (c.more wing ph) (c.tap x wing i ph) c.limit 0 Sample.zero := by
  have hud : wingSum c x wing i ph = filterUd c x wing i ph c.step := by
    unfold wingSum Call.step
    cases c.mode with
    | up => exact (filterUd_eq_filterUp c x wing i ph).symm
    | ud => rfl
  exact hud.trans (filterUd_eq_tapLoop c x wing i ph c.step _ rfl)

/-! ## The reach of the taps -/

section
variable {c c' : Call} {x x' : Memory} {wing : Wing} {i i' : Int} {ph reach time base : Nat}

/-- After as many table steps as pass the wing no tap is left (42_engine.md R216). -/
theorem Call.more_eq_false (hreach : 2 ^ 32 * c.nwing ≤ reach * c.step) (wing : Wing) (ph : Nat) :
    c.more wing ph reach = false := by
  have hend : wing.tapEnd c.nwing ≤ c.nwing := by cases wing <;> simp [Wing.tapEnd]
  refine decide_eq_false ?_
  unfold Call.tapPos
  omega

/-- A wing's sum is the loop over as many taps as reach. -/
theorem wingSum_eq_reach (hreach : 2 ^ 32 * c.nwing ≤ reach * c.step) (hlimit : reach ≤ c.limit) :
    wingSum c x wing i ph = tapLoop (c.more wing ph) (c.tap x wing i ph) reach 0 Sample.zero := by
  rw [wingSum_eq_tapLoop]
  exact tapLoop_bound hlimit ⟨reach, Nat.zero_le _, by omega, .inl (Call.more_eq_false hreach wing ph)⟩

/-- The part of a call that the kernel depends on, apart from the words of X in use. -/
def Call.kernel (c : Call) : Call :=
  { c with xoff := 0, xsize := 0, ysize := 0, n := 0, room := 0, offer := [], ready := none, last := false, dt := 0 }

/-- The calls filter alike. -/
abbrev SameKernel (c c' : Call) : Prop := c'.kernel = c.kernel

theorem SameKernel.more (h : SameKernel c c') : c'.more = c.more :=
  show c'.kernel.more = c.kernel.more by rw [h]

theorem SameKernel.step (h : SameKernel c c') : c'.step = c.step :=
  show c'.kernel.step = c.kernel.step by rw [h]

theorem SameKernel.nwing (h : SameKernel c c') : c'.nwing = c.nwing :=
  show c'.kernel.nwing = c.kernel.nwing by rw [h]

theorem SameKernel.lpscl (h : SameKernel c c') : c'.lpscl = c.lpscl :=
  show c'.kernel.lpscl = c.kernel.lpscl by rw [h]

/-- Taps that read the same word are the same. -/
theorem SameKernel.tap_eq (h : SameKernel c c') {j : Nat}
    (hread : xRead c' x' (i' + wing.dir * j) = xRead c x (i + wing.dir * j)) :
    c'.tap x' wing i' ph j = c.tap x wing i ph j := by
  have hweight : tapWeight c' = tapWeight c := show tapWeight c'.kernel = tapWeight c.kernel by rw [h]
  have hpos : c'.tapPos = c.tapPos := show c'.kernel.tapPos = c.kernel.tapPos by rw [h]
  simp only [Call.tap, tapProduct, hweight, hpos, hread]

/-- A wing's sum depends on the words within its reach. -/
theorem SameKernel.wingSum_eq (h : SameKernel c c') (hreach : 2 ^ 32 * c.nwing ≤ reach * c.step)
    (hlimit : reach ≤ c.limit) (hlimit' : reach ≤ c'.limit)
    (hread : ∀ j : Nat, j < reach → xRead c' x' (i' + wing.dir * j) = xRead c x (i + wing.dir * j)) :
    wingSum c' x' wing i' ph = wingSum c x wing i ph := by
  rw [wingSum_eq_reach hreach hlimit, wingSum_eq_reach (by rwa [h.nwing, h.step]) hlimit', h.more]
  exact tapLoop_congr fun j _ hj => h.tap_eq (hread j (by omega))

/-- SAMPLE over the same X with as many words in use. -/
theorem SameKernel.sample_eq (h : SameKernel c c') (hlimit : c'.limit = c.limit) (x : Memory) (time : Nat) :
    sample c' x time = sample c x time := by
  have hwing : wingSum c' x = wingSum c x := by
    funext wing i ph
    have htap : c'.tap x wing i ph = c.tap x wing i ph :=
      funext fun j => h.tap_eq (by simp only [xRead, hlimit])
    rw [wingSum_eq_tapLoop, wingSum_eq_tapLoop, h.more, htap, hlimit]
  simp only [sample, hwing, h.lpscl]

/-- SAMPLE at two times `base` samples apart is the same when the words within reach are (42_engine.md R216, R220). -/
theorem SameKernel.sample_shift (h : SameKernel c c') (hreach : 2 ^ 32 * c.nwing ≤ reach * c.step)
    (hlimit : reach ≤ c.limit) (hlimit' : reach ≤ c'.limit) (hlow : reach ≤ time / 2 ^ 32 + 1)
    (hread : ∀ k : Nat, time / 2 ^ 32 + 1 ≤ k + reach → k ≤ time / 2 ^ 32 + reach →
      xRead c' x' ((base + k : Nat) : Int) = xRead c x k) :
    sample c' x' (time + 2 ^ 32 * base) = sample c x time := by
  have hint : (time + 2 ^ 32 * base) / 2 ^ 32 = base + time / 2 ^ 32 := by omega
  have hfrac : (time + 2 ^ 32 * base) % 2 ^ 32 = time % 2 ^ 32 := by omega
  have hleft : ∀ ph, wingSum c' x' .left (base + time / 2 ^ 32 : Nat) ph =
      wingSum c x .left (time / 2 ^ 32 : Nat) ph := by
    refine fun ph => h.wingSum_eq hreach hlimit hlimit' fun j hj => ?_
    have hk := hread (time / 2 ^ 32 - j) (by omega) (by omega)
    convert hk using 2 <;> simp only [Wing.dir] <;> omega
  have hright : ∀ ph, wingSum c' x' .right ((base + time / 2 ^ 32 : Nat) + 1) ph =
      wingSum c x .right ((time / 2 ^ 32 : Nat) + 1) ph := by
    refine fun ph => h.wingSum_eq hreach hlimit hlimit' fun j hj => ?_
    have hk := hread (time / 2 ^ 32 + 1 + j) (by omega) (by omega)
    convert hk using 2 <;> simp only [Wing.dir] <;> omega
  simp only [sample, hint, hfrac, hleft, hright, h.lpscl]

end

/-! ## That SAMPLE has a value -/

/-- A complete ROM has a weight at every position of its wing. -/
theorem tapWeight_isSome {c : Call} (hrom : RomTotal c.params c.quality) {h : Nat}
    (hh : h < c.params.nwing c.quality) (a32 : Sample) : (tapWeight c h a32).isSome = true := by
  obtain ⟨t, ht⟩ := Option.isSome_iff_exists.mp (hrom h hh)
  have himpd : (c.params.impd c.quality h).isSome = true := by
    unfold Params.impd
    split
    · rw [ht]
      rfl
    · obtain ⟨next, hnext⟩ := Option.isSome_iff_exists.mp (hrom (h + 1) (by omega))
      rw [hnext, ht]
      rfl
  simp only [tapWeight, ht]
  split
  · simpa using himpd
  · rfl

/-- A wing whose reach is written and in use has a sum. -/
theorem wingSum_isSome {c : Call} {x : Memory} {wing : Wing} {i : Int} {ph reach : Nat}
    (hnwing : c.nwing = c.params.nwing c.quality) (hrom : RomTotal c.params c.quality)
    (hreach : 2 ^ 32 * c.nwing ≤ reach * c.step) (hlimit : reach ≤ c.limit)
    (hread : ∀ j : Nat, j < reach → (xRead c x (i + wing.dir * j)).isSome = true) :
    (wingSum c x wing i ph).isSome = true := by
  have hend : wing.tapEnd c.nwing ≤ c.nwing := by cases wing <;> simp [Wing.tapEnd]
  rw [wingSum_eq_reach hreach hlimit]
  refine tapLoop_isSome (by rw [Nat.zero_add]; exact Call.more_eq_false hreach wing ph) fun j _ hj hmore => ?_
  simp only [Call.more, decide_eq_true_eq] at hmore
  obtain ⟨t, ht⟩ := Option.isSome_iff_exists.mp (tapWeight_isSome hrom (h := c.tapPos wing ph j / 2 ^ 32) (by omega)
    (f32OfRatio (c.tapPos wing ph j % 2 ^ 32) (2 ^ 32)))
  obtain ⟨v, hv⟩ := Option.isSome_iff_exists.mp (hread j (by omega))
  simp only [Call.tap, tapProduct, ht, hv, Option.isSome_some]

/-- SAMPLE has a value when the words within its reach are written and in use (42_engine.md R216). -/
theorem sample_isSome {c : Call} {x : Memory} {time reach : Nat} (hnwing : c.nwing = c.params.nwing c.quality)
    (hrom : RomTotal c.params c.quality) (hreach : 2 ^ 32 * c.nwing ≤ reach * c.step)
    (hlow : reach ≤ time / 2 ^ 32 + 1) (hhigh : time / 2 ^ 32 + reach < c.limit)
    (hread : ∀ k, time / 2 ^ 32 + 1 ≤ k + reach → k ≤ time / 2 ^ 32 + reach → (x.read k).isSome = true) :
    (sample c x time).isSome = true := by
  have hword : ∀ (wing : Wing) (i : Int) (j k : Nat), i + wing.dir * j = k → time / 2 ^ 32 + 1 ≤ k + reach →
      k ≤ time / 2 ^ 32 + reach → (xRead c x (i + wing.dir * j)).isSome = true := by
    intro wing i j k hk hlow hhigh
    rw [hk, xRead_natCast, if_pos (by omega)]
    exact hread k hlow hhigh
  obtain ⟨l, hl⟩ := Option.isSome_iff_exists.mp (wingSum_isSome (x := x) (wing := .left) (i := (time / 2 ^ 32 : Nat))
    (ph := time % 2 ^ 32) hnwing hrom hreach (by omega) fun j hj =>
      hword _ _ j (time / 2 ^ 32 - j) (by simp only [Wing.dir]; omega) (by omega) (by omega))
  obtain ⟨r, hr⟩ := Option.isSome_iff_exists.mp (wingSum_isSome (x := x) (wing := .right)
    (i := (time / 2 ^ 32 : Nat) + 1) (ph := 2 ^ 32 - time % 2 ^ 32) hnwing hrom hreach (by omega) fun j hj =>
      hword _ _ j (time / 2 ^ 32 + 1 + j) (by simp only [Wing.dir]; omega) (by omega) (by omega))
  simp only [sample, hl, hr, Option.isSome_some]

/-! ## The closed form -/

/-- The stream buffer as a memory holds the words that the stream can reach. -/
theorem streamMemory_read (xoff : Nat) (stream : List Sample) (j : Nat) :
    (streamMemory xoff stream).read j =
      if j < stream.length + 2 * xoff then some (streamBuffer xoff stream j) else none := by
  have key : ∀ l : List Nat, Memory.read (l.map fun j => (j, streamBuffer xoff stream j)) j =
      if j ∈ l then some (streamBuffer xoff stream j) else none := by
    intro l
    induction l with
    | nil => rfl
    | cons a l ih =>
      by_cases h : a = j
      · simp [Memory.read, h]
      · simp [Memory.read, h, ih, Ne.symm h]
  simpa [streamMemory] using key (List.range (stream.length + 2 * xoff))

/-- The closed form depends on the kernel's part of the call, XOFF and DT. -/
theorem closedForm_eq {c c' : Call} (h : SameKernel c c') (hxoff : c'.xoff = c.xoff) (hdt : c'.dt = c.dt) :
    closedForm c' = closedForm c := by
  funext stream k
  have hsame : SameKernel { c with xsize := stream.length + c.xoff } { c' with xsize := stream.length + c'.xoff } := h
  rw [closedForm, hsame.sample_eq (by simp only [Call.limit, hxoff]), hxoff, hdt]
  rfl

/-- SAMPLE over X is the closed form when X holds the stream from word `base` of its buffer on, as far as the taps
reach (42_engine.md R216, R220). -/
theorem sample_eq_closedForm {c : Call} {x : Memory} {stream : List Sample} {time base k : Nat}
    (hreach : 2 ^ 32 * c.nwing ≤ c.xoff * c.step) (htime : time + 2 ^ 32 * base = 2 ^ 32 * c.xoff + k * c.dt)
    (hlow : c.xoff ≤ time / 2 ^ 32 + 1) (hhigh : time / 2 ^ 32 + c.xoff < c.limit)
    (hend : base + (time / 2 ^ 32 + c.xoff) < stream.length + 2 * c.xoff)
    (hread : ∀ j ≤ time / 2 ^ 32 + c.xoff, x.read j = some (streamBuffer c.xoff stream (base + j))) :
    sample c x time = closedForm c stream k := by
  have hlimit : { c with xsize := stream.length + c.xoff }.limit = stream.length + 2 * c.xoff := by
    simp only [Call.limit]
    omega
  have hsame : SameKernel c { c with xsize := stream.length + c.xoff } := rfl
  rw [closedForm, ← htime]
  refine (hsame.sample_shift hreach (by omega) (by omega) hlow fun j hj hj' => ?_).symm
  rw [xRead_natCast, xRead_natCast, hlimit, if_pos (by omega), if_pos (by omega), hread j hj', streamMemory_read,
    if_pos (by omega)]

end Sys2Proof.Machine
end

section
/-! PROOFS. When the parts of PROCESS are done, and what words they leave in X and Y (spec/42_engine.md R187 to R200):
each part is done when its operands and the words it reads are there. -/

namespace Sys2Proof.Machine

/-! ## Ranges of words written in rising order -/

/-- Memory `m'` is `m` with the `count` words from `first` on replaced by `word 0`, `word 1`, … -/
def Memory.Filled (m : Memory) (first count : Nat) (word : Nat → Option Sample) (m' : Memory) : Prop :=
  ∀ j, m'.read j = if first ≤ j ∧ j < first + count then word (j - first) else m.read j

section
variable {m m' : Memory} {first count : Nat} {word : Nat → Option Sample}

theorem Memory.Filled.zero : Memory.Filled m first 0 word m := fun j => by rw [if_neg (by omega)]

/-- The words of the range. -/
theorem Memory.Filled.inside (h : Memory.Filled m first count word m') {k : Nat} (hk : k < count) :
    m'.read (first + k) = word k := by
  rw [h, if_pos (by omega), Nat.add_sub_cancel_left]

/-- The other words. -/
theorem Memory.Filled.outside (h : Memory.Filled m first count word m') {j : Nat}
    (hj : j < first ∨ first + count ≤ j) : m'.read j = m.read j := by
  rw [h, if_neg (by omega)]

/-- Writing the next word of the range. -/
theorem Memory.Filled.write (h : Memory.Filled m first count word m') {v : Sample} (hv : word count = some v) :
    Memory.Filled m first (count + 1) word (m'.write (first + count) v) := by
  intro j
  rw [Memory.read_write]
  split
  · next hj => rw [if_pos (by omega), hj, Nat.add_sub_cancel_left, hv]
  · next hj =>
    rw [h]
    exact if_congr (by omega) rfl rfl

/-- Writing the first word of the range before the others. -/
theorem Memory.Filled.cons {v : Sample} (hv : word 0 = some v)
    (h : Memory.Filled (m.write first v) (first + 1) count (fun k => word (k + 1)) m') :
    Memory.Filled m first (count + 1) word m' := by
  intro j
  rw [h, Memory.read_write]
  rcases Nat.lt_trichotomy j first with hj | rfl | hj
  · rw [if_neg (by omega), if_neg (by omega), if_neg (by omega)]
  · rw [if_neg (by omega), if_pos rfl, if_pos (by omega), Nat.sub_self, hv]
  · by_cases hlt : j < first + (count + 1)
    · rw [if_pos (by omega), if_pos (by omega)]
      exact congrArg word (by omega)
    · rw [if_neg (by omega), if_neg (by omega), if_neg (by omega)]

end

/-- A loop whose rounds write a range of words in rising order is done and has filled the range. -/
theorem forRange_fills {body : Nat → Work → Run} {first count : Nat} {word : Nat → Option Sample} (m : Memory)
    (set : Nat → Memory → Work)
    (round : ∀ k a, k < count → Memory.Filled m first k word a →
      ∃ v, word k = some v ∧ body k (set k a) = .done (set (k + 1) (a.write (first + k) v))) :
    ∃ a, Memory.Filled m first count word a ∧ forRange body 0 count (set 0 m) = .done (set count a) := by
  obtain ⟨w', hw', a, ha, rfl⟩ := forRange_completes (body := body) (first := 0) (count := count) (w := set 0 m)
    (P := fun k v => ∃ a, Memory.Filled m first k word a ∧ v = set k a) ⟨m, .zero, rfl⟩ (by
      rintro k v - hk ⟨a, ha, rfl⟩
      obtain ⟨v, hv, hbody⟩ := round k a (by omega) ha
      exact ⟨_, hbody, _, ha.write hv, rfl⟩)
  rw [Nat.zero_add] at ha hw'
  exact ⟨a, ha, hw'⟩

section
variable {c : Call} {w : Work}

/-! ## DRAIN -/

/-- The deliveries of written words that the port accepts are done, in order. -/
theorem forRange_outWrite_completes {count : Nat} (hwritten : w.y.Written count) (hcount : count ≤ c.ysize)
    (hready : ∀ ready ∈ c.ready, w.written + count ≤ ready) : ∃ out : List Sample,
    out.map some = (List.range count).map w.y.read ∧
    forRange (outWrite c) 0 count w = .done { w with moves := w.moves ++ out.map .output } := by
  obtain ⟨w', hw', out, hout, rfl⟩ := forRange_completes (body := outWrite c) (first := 0) (count := count) (w := w)
    (P := fun k v => ∃ out : List Sample, out.map some = (List.range k).map w.y.read ∧
      v = { w with moves := w.moves ++ out.map .output }) ⟨[], rfl, by simp⟩ (by
      rintro k v - hk ⟨out, hout, rfl⟩
      obtain ⟨a, ha⟩ := Option.isSome_iff_exists.mp (hwritten k (by omega))
      have hlen : out.length = k := by simpa using congrArg List.length hout
      refine ⟨_, outWrite_eq_done.mpr ⟨a, yRead_eq_some.mpr ⟨by omega, ha⟩, ?_, rfl⟩, out ++ [a], ?_, by simp⟩
      · rw [Call.accepts_eq_true]
        intro r hr
        have := hready r hr
        simp only [Work.written_eq, outputsOf_append, outputsOf_map_output, List.length_append] at this ⊢
        omega
      · simp [List.range_succ, hout, ha])
  rw [Nat.zero_add] at hout
  exact ⟨out, hout, hw'⟩

/-- DRAIN delivers the first pending samples, as many as the room holds, and moves the others down to index 0
(42_engine.md R187). -/
theorem drain_completes (hyp : w.yp ≤ c.ysize) (hwritten : w.y.Written w.yp)
    (hready : ∀ ready ∈ c.ready, w.written + min (c.room - w.written) w.yp ≤ ready) :
    ∃ (y : Memory) (out : List Sample), out.length = min (c.room - w.written) w.yp ∧
      out.map some = (List.range out.length).map w.y.read ∧
      Memory.Filled w.y 0 (w.yp - out.length) (fun j => w.y.read (j + out.length)) y ∧
      drain c w = .done { w with y, yp := w.yp - out.length, moves := w.moves ++ out.map .output } := by
  obtain ⟨out, hout, hrun⟩ := forRange_outWrite_completes (hwritten.mono (Nat.min_le_right (c.room - w.written) w.yp))
    ((Nat.min_le_right ..).trans hyp) hready
  have hlen : out.length = min (c.room - w.written) w.yp := by simpa using congrArg List.length hout
  obtain ⟨y, hy, hshift⟩ := forRange_fills (body := fun j => yCopy c j (j + out.length)) (first := 0)
    (count := w.yp - out.length) (word := fun j => w.y.read (j + out.length)) w.y
    (fun _ a => { w with y := a, moves := w.moves ++ out.map .output }) (by
      intro k a hk ha
      obtain ⟨v, hv⟩ := Option.isSome_iff_exists.mp (hwritten (k + out.length) (by omega))
      exact ⟨v, hv, yCopy_eq_done.mpr ⟨v, by omega, (ha.outside (by omega)).trans hv, by omega, by simp⟩⟩)
  refine ⟨y, out, hlen, hlen ▸ hout, hy, ?_⟩
  rw [drain, hrun]
  simp only [Run.done_andThen, ← hlen, hshift]

/-! ## PULL and the padding -/

/-- PULL takes the next samples of an offer that is presented (42_engine.md R192). -/
theorem pull_completes (hoffer : c.n ≤ c.offer.length) : ∃ (x : Memory) (count : Nat),
    count = min (c.xsize - w.xread) (c.n - w.used) ∧
    Memory.Filled w.x w.xread count (fun k => c.offer[w.used + k]?) x ∧
    pull c w = .done { w with x, xread := w.xread + count, moves := w.moves ++ List.replicate count .input } := by
  obtain ⟨x, hx, hrun⟩ := forRange_fills (body := pullOne c) (first := w.xread)
    (count := min (c.xsize - w.xread) (c.n - w.used)) (word := fun k => c.offer[w.used + k]?) w.x
    (fun k a => { w with x := a, xread := w.xread + k, moves := w.moves ++ List.replicate k .input }) (by
      intro k a hk _
      have hin : w.used + k < c.offer.length := by omega
      have hlt : w.xread + k < c.limit := by unfold Call.limit; omega
      have hused : ({ w with
          x := a, xread := w.xread + k, moves := w.moves ++ List.replicate k .input } : Work).used = w.used + k := by
        simp [Work.used_eq]
      refine ⟨c.offer[w.used + k], List.getElem?_eq_getElem hin, ?_⟩
      rw [pullOne, hused, Call.inRead, if_pos (by omega), List.getElem?_eq_getElem hin]
      simp [xWrite, hlt, List.replicate_succ', Nat.add_assoc])
  refine ⟨x, _, rfl, hx, ?_⟩
  simpa [pull] using hrun

/-- The padding of the final batch (42_engine.md R194). -/
theorem flush_completes (hxread : w.xread ≤ c.xsize) : ∃ x,
    Memory.Filled w.x w.xread c.xoff (fun _ => some Sample.zero) x ∧
    flush c w = .done { w with x, flushed := true } := by
  obtain ⟨x, hx, hrun⟩ := forRange_fills (body := fun k w => xWrite c (w.xread + k) Sample.zero w) (first := w.xread)
    (count := c.xoff) (word := fun _ => some Sample.zero) w.x (fun _ a => { w with x := a })
    fun k a hk _ => ⟨_, rfl, xWrite_eq_done.mpr ⟨by unfold Call.limit; dsimp only; omega, rfl⟩⟩
  refine ⟨x, hx, ?_⟩
  rw [flush, hrun]
  rfl

/-! ## PASS and RETIRE -/

/-- How many samples a step apart lie below a bound. -/
theorem exists_count_below (time bound : Nat) {dt : Nat} (hdt : 0 < dt) :
    ∃ count, ∀ k, k < count ↔ time + k * dt < bound := by
  refine ⟨(bound - time) ⌈/⌉ dt, fun k => ?_⟩
  rw [← Nat.not_le, ceilDiv_le_iff_le_mul hdt, Nat.mul_comm]
  omega

/-- The loop of a pass makes every sample below its bound when Y has room for them and each has a value. -/
theorem passFrom_completes {bound : Nat} : ∀ {slots count : Nat} {w : Work}, count < slots →
    (∀ k, k < count ↔ w.time + k * c.dt < bound) →
    (∀ k < count, (sample c w.x (w.time + k * c.dt)).isSome = true) → w.nout + count ≤ c.ysize →
    ∃ y, Memory.Filled w.y w.nout count (fun k => sample c w.x (w.time + k * c.dt)) y ∧
      passFrom c bound slots w = .done { w with y, nout := w.nout + count, time := w.time + count * c.dt }
  | 0, count, w, hslots, _, _, _ => absurd hslots (Nat.not_lt_zero count)
  | slots + 1, 0, w, _, hcount, _, _ => by
    have hend : ¬ w.time < bound := by simpa using hcount 0
    exact ⟨w.y, .zero, by simp [passFrom, hend]⟩
  | slots + 1, count + 1, w, hslots, hcount, hsample, hroom => by
    have hlt : w.time < bound := by simpa using hcount 0
    have hnext : ∀ k, w.time + (k + 1) * c.dt = w.time + c.dt + k * c.dt := fun k => by ring
    obtain ⟨v, hv⟩ := Option.isSome_iff_exists.mp (hsample 0 (by omega))
    obtain ⟨y, hy, hrun⟩ := passFrom_completes
      (w := { w with y := w.y.write w.nout v, nout := w.nout + 1, time := w.time + c.dt }) (slots := slots)
      (count := count) (by omega) (fun k => by rw [← hnext, ← hcount]; omega)
      (fun k hk => by rw [← hnext]; exact hsample (k + 1) (by omega)) (by dsimp only; omega)
    refine ⟨y, .cons hv (by simpa only [hnext] using hy), ?_⟩
    rw [Nat.zero_mul, Nat.add_zero] at hv
    have hone : passOne c w = .done { w with y := w.y.write w.nout v, nout := w.nout + 1, time := w.time + c.dt } := by
      rw [passOne, hv]
      simp [yWrite, show w.nout < c.ysize by omega]
    rw [passFrom, if_pos hlt, hone, Run.done_andThen, hrun]
    simp only [hnext, Nat.add_assoc, Nat.add_comm 1]

/-- PASS makes every sample below its bound in Y[0, nout) (42_engine.md R196). -/
theorem pass_completes {nx count : Nat} (hcount : ∀ k, k < count ↔ w.time + k * c.dt < 2 ^ 32 * (c.xoff + nx))
    (hsample : ∀ k < count, (sample c w.x (w.time + k * c.dt)).isSome = true) (hroom : count ≤ c.ysize) :
    ∃ y, Memory.Filled w.y 0 count (fun k => sample c w.x (w.time + k * c.dt)) y ∧
      pass c nx w = .done { w with y, nout := count, time := w.time + count * c.dt } := by
  obtain ⟨y, hy, hrun⟩ := passFrom_completes (w := { w with nout := 0 }) (slots := c.ysize + 1) (by omega) hcount
    hsample (by dsimp only; omega)
  exact ⟨y, hy, by simpa [pass] using hrun⟩

/-- RETIRE moves the words of X from XP - XOFF on down to index 0 (42_engine.md R199, R200). -/
theorem retireShift_completes (hwritten : w.x.Written w.xread) (hlimit : w.xread ≤ c.limit)
    (hshift : w.xp - c.xoff ≤ w.xread) : ∃ x,
    Memory.Filled w.x 0 (w.xread - (w.xp - c.xoff)) (fun k => w.x.read (k + (w.xp - c.xoff))) x ∧
    retireShift c w = .done { w with x, xread := w.xread - (w.xp - c.xoff), xp := c.xoff, yp := w.nout } := by
  obtain ⟨x, hx, hrun⟩ := forRange_fills (body := fun k => xCopy c k (k + (w.xp - c.xoff))) (first := 0)
    (count := w.xread - (w.xp - c.xoff)) (word := fun k => w.x.read (k + (w.xp - c.xoff))) w.x
    (fun _ a => { w with x := a }) (by
      intro k a hk ha
      obtain ⟨v, hv⟩ := Option.isSome_iff_exists.mp (hwritten (k + (w.xp - c.xoff)) (by omega))
      exact ⟨v, hv, xCopy_eq_done.mpr ⟨v, by omega, (ha.outside (by omega)).trans hv, by omega, by simp⟩⟩)
  refine ⟨x, hx, ?_⟩
  rw [retireShift, hrun]
  rfl

end

end Sys2Proof.Machine
end

section
/-! PROOFS. A PROCESS on the stream: every part of it takes the next samples of the stream and makes the next outputs
of the closed form (spec/42_engine.md R216 to R221, spec/20_memory.md R87, R88). -/

namespace Sys2Proof.Machine

/-! ## Where a PROCESS stands in the stream -/

/-- The call offers the samples of `stream` from `pos` on, with LAST at its end, no port makes it wait, and the sizes
reach for its factor (42_engine.md R216 to R218, R220; 70_reset_and_hazards.md R276). -/
structure Call.Streams (c : Call) (stream : List Sample) (pos : Nat) : Prop where
  offer : ∀ k < c.n, c.offer[k]? = stream[pos + k]?
  presented : c.n ≤ c.offer.length
  inside : pos + c.n ≤ stream.length
  last : c.last = true → pos + c.n = stream.length
  ready : ∀ r ∈ c.ready, c.room ≤ r
  xsize : 2 * c.xoff < c.xsize
  dt_le : c.dt ≤ 2 ^ 32 * c.xoff
  dt_ge : 2 ^ 32 * (c.xsize - c.xoff) ≤ c.ysize * c.dt
  reach : 2 ^ 32 * c.nwing ≤ c.xoff * c.step
  nwing : c.nwing = c.params.nwing c.quality
  rom : RomTotal c.params c.quality

/-- What a PROCESS works on when it began at sample `pos` of the stream and at output `first`, which it delivers next,
has shifted the first `base` words of the stream buffer out of X, and has made the outputs below `made`
(42_engine.md R220). -/
structure Work.Follows (c : Call) (stream : List Sample) (pos first base made : Nat) (w : Work) : Prop where
  used_le : w.used ≤ c.n
  written_le : w.written ≤ c.room
  xread_eq : base + w.xread = c.xoff + (pos + w.used)
  time_eq : w.time + 2 ^ 32 * base = 2 ^ 32 * c.xoff + made * c.dt
  made_eq : made = first + w.written + w.yp
  made_lt : ∀ k < made, k * c.dt < 2 ^ 32 * (pos + w.used)
  x_eq : ∀ j < w.xread, w.x.read j = some (streamBuffer c.xoff stream (base + j))
  y_eq : ∀ j < w.yp, w.y.read j = closedForm c stream (first + w.written + j)
  out_eq : w.out.map some = (List.range w.written).map fun k => closedForm c stream (first + k)

/-- After the flush every output below the end of the stream is made (42_engine.md R221). -/
abbrev Work.Ended (c : Call) (stream : List Sample) (pos made : Nat) (w : Work) : Prop :=
  w.flushed = true → pos + w.used = stream.length ∧ 2 ^ 32 * stream.length ≤ made * c.dt

section
variable {c : Call} {stream : List Sample} {pos first base made : Nat} {w : Work}

/-- A sample that an offer presents stands in the stream buffer after the samples before it. -/
theorem streamBuffer_of_getElem? {xoff j : Nat} {v : Sample} (h : stream[j]? = some v) :
    streamBuffer xoff stream (xoff + j) = v := by
  rw [streamBuffer, if_neg (by omega), Nat.add_sub_cancel_left, h]
  rfl

/-- The stream buffer is silent after the stream. -/
theorem streamBuffer_of_ge {xoff j : Nat} (h : stream.length ≤ j) :
    streamBuffer xoff stream (xoff + j) = Sample.zero := by
  rw [streamBuffer, if_neg (by omega), Nat.add_sub_cancel_left, List.getElem?_eq_none h]
  rfl

/-- The words of X that hold the stream are written. -/
theorem Work.Follows.x_written (h : Work.Follows c stream pos first base made w) : w.x.Written w.xread := fun j hj => by
  rw [h.x_eq j hj]
  rfl

/-! ## DRAIN -/

/-- DRAIN delivers the next outputs of the closed form (42_engine.md R187, R220; 20_memory.md R88). -/
theorem Work.Follows.drain (h : Work.Follows c stream pos first base made w) (hc : c.Streams stream pos)
    (hyp : w.yp ≤ c.ysize) (hwritten : w.y.Written w.yp) :
    ∃ w', Machine.drain c w = .done w' ∧ Work.Follows c stream pos first base made w' ∧ w'.used = w.used ∧
      w'.flushed = w.flushed := by
  have hw := h.written_le
  obtain ⟨y, out, hlen, hout, hy, hrun⟩ := drain_completes hyp hwritten fun r hr => by
    have := hc.ready r hr
    omega
  obtain ⟨w', hw'⟩ : ∃ w', w' = { w with
    y, yp := w.yp - out.length, moves := w.moves ++ out.map Transfer.output } := ⟨_, rfl⟩
  have hused : w'.used = w.used := by simp [hw', Work.used_eq]
  have hcount : w'.written = w.written + out.length := by simp [hw', Work.written_eq]
  have hout' : w'.out = w.out ++ out := by simp [hw', Work.out_eq]
  have hyp' : w'.yp = w.yp - out.length := by rw [hw']
  have hmade := h.made_eq
  rw [← hw'] at hrun
  refine ⟨w', hrun, ?_, hused, by rw [hw']⟩
  constructor
  case used_le => exact hused ▸ h.used_le
  case written_le => omega
  case xread_eq => rw [hused, hw']; exact h.xread_eq
  case time_eq => rw [hw']; exact h.time_eq
  case made_eq => omega
  case made_lt => rw [hused]; exact h.made_lt
  case x_eq => rw [hw']; exact h.x_eq
  case y_eq =>
    intro j hj
    have hread := hy.inside (hyp' ▸ hj)
    rw [Nat.zero_add] at hread
    rw [hcount, hw', hread, h.y_eq _ (by omega)]
    exact congrArg _ (by omega)
  case out_eq =>
    have hnext : out.map some = (List.range out.length).map fun k => closedForm c stream (first + (w.written + k)) := by
      rw [hout]
      refine List.map_congr_left fun k hk => ?_
      have hk := List.mem_range.mp hk
      rw [h.y_eq k (by omega), Nat.add_assoc]
    rw [hout', hcount, List.map_append, h.out_eq, hnext, List.range_add, List.map_append, List.map_map]
    rfl

/-! ## PULL and the padding -/

/-- X holds the stream buffer up to XREAD, and after the flush the padding above it. -/
def Work.Loaded (c : Call) (stream : List Sample) (base : Nat) (w : Work) : Prop :=
  ∀ j < w.xread + (if w.flushed then c.xoff else 0), w.x.read j = some (streamBuffer c.xoff stream (base + j))

/-- PULL takes the next samples of the stream (42_engine.md R192, R220; 20_memory.md R87). -/
theorem Work.Follows.pull (h : Work.Follows c stream pos first base made w) (hc : c.Streams stream pos)
    (hxread : w.xread ≤ c.xsize) :
    ∃ w', Machine.pull c w = .done w' ∧ Work.Follows c stream pos first base made w' ∧ w'.xread ≤ c.xsize ∧
      w' = { w with x := w'.x, xread := w'.xread, moves := w'.moves } := by
  obtain ⟨x, count, hcount, hx, hrun⟩ := pull_completes (c := c) (w := w) hc.presented
  obtain ⟨w', hw'⟩ : ∃ w', w' = { w with
    x, xread := w.xread + count, moves := w.moves ++ List.replicate count Transfer.input } := ⟨_, rfl⟩
  have hused : w'.used = w.used + count := by simp [hw', Work.used_eq]
  have hout : w'.out = w.out := by simp [hw', Work.out_eq]
  have hwritten : w'.written = w.written := congrArg List.length hout
  have hxread' : w'.xread = w.xread + count := by rw [hw']
  have hle := h.used_le
  have heq := h.xread_eq
  rw [← hw'] at hrun
  refine ⟨w', hrun, ?_, by omega, by rw [hw']⟩
  constructor
  case used_le => omega
  case written_le => exact hwritten ▸ h.written_le
  case xread_eq => omega
  case time_eq => rw [hw']; exact h.time_eq
  case made_eq => rw [hwritten, hw']; exact h.made_eq
  case made_lt =>
    intro k hk
    have := h.made_lt k hk
    omega
  case x_eq =>
    intro j hj
    rw [hw']
    by_cases hold : j < w.xread
    · exact (hx.outside (.inl hold)).trans (h.x_eq j hold)
    · obtain ⟨k, rfl⟩ : ∃ k, j = w.xread + k := ⟨j - w.xread, by omega⟩
      have hin := hc.inside
      have hget : stream[pos + (w.used + k)]? = some stream[pos + (w.used + k)] := List.getElem?_eq_getElem (by omega)
      rw [show base + (w.xread + k) = c.xoff + (pos + (w.used + k)) by omega, streamBuffer_of_getElem? hget, ← hget,
        ← hc.offer _ (by omega)]
      exact hx.inside (by omega)
  case y_eq => rw [hwritten, hw']; exact h.y_eq
  case out_eq => rw [hout, hwritten]; exact h.out_eq

/-- The final batch takes the stream to its end. -/
theorem finalBatch_end (hc : c.Streams stream pos) (hfinal : finalBatch c w = true) :
    pos + w.used = stream.length := by
  rw [used_of_finalBatch hfinal]
  exact hc.last (by simp only [finalBatch, Bool.and_eq_true] at hfinal; exact hfinal.1)

/-- The padding follows the end of the stream in X (42_engine.md R194). -/
theorem Work.Follows.flush (h : Work.Follows c stream pos first base made w) (hxread : w.xread ≤ c.xsize)
    (hend : pos + w.used = stream.length) :
    ∃ x, Machine.flush c w = .done { w with x, flushed := true } ∧
      Work.Follows c stream pos first base made { w with x, flushed := true } ∧
      Work.Loaded c stream base { w with x, flushed := true } := by
  obtain ⟨x, hx, hrun⟩ := flush_completes hxread
  have heq := h.xread_eq
  have hload : ∀ j < w.xread + c.xoff, x.read j = some (streamBuffer c.xoff stream (base + j)) := by
    intro j hj
    by_cases hold : j < w.xread
    · rw [hx.outside (.inl hold), h.x_eq j hold]
    · obtain ⟨k, rfl⟩ : ∃ k, j = w.xread + k := ⟨j - w.xread, by omega⟩
      rw [hx.inside (by omega), show base + (w.xread + k) = c.xoff + (stream.length + k) by omega,
        streamBuffer_of_ge (by omega)]
  exact ⟨x, hrun, { h with x_eq := fun j hj => hload j (Nat.lt_add_right _ hj) }, hload⟩

/-- PULL and the padding leave X loaded for a pass (42_engine.md R192, R194). -/
theorem Work.Follows.pullAndPad (h : Work.Follows c stream pos first base made w) (hc : c.Streams stream pos)
    (hxread : w.xread ≤ c.xsize) (hunflushed : w.flushed = false) :
    ∃ w', Machine.pullAndPad c w = .done w' ∧ Work.Follows c stream pos first base made w' ∧
      Work.Loaded c stream base w' ∧ w'.xread ≤ c.xsize ∧ w'.flushed = finalBatch c w' ∧ w'.time = w.time ∧
      w'.xp = w.xp ∧ w'.yp = w.yp := by
  obtain ⟨w1, hpull, h1, hxread1, hw1⟩ := h.pull hc hxread
  have hflushed : w1.flushed = false := by rw [hw1, hunflushed]
  have htime : w1.time = w.time := by rw [hw1]
  have hxp : w1.xp = w.xp := by rw [hw1]
  have hyp : w1.yp = w.yp := by rw [hw1]
  rw [Machine.pullAndPad, hpull, Run.done_andThen]
  split
  · next hfinal =>
    obtain ⟨x, hrun, h2, hload⟩ := h1.flush hxread1 (finalBatch_end hc hfinal)
    exact ⟨_, hrun, h2, hload, hxread1, hfinal.symm, htime, hxp, hyp⟩
  · next hfinal =>
    refine ⟨w1, rfl, h1, fun j hj => h1.x_eq j ?_, hxread1, ?_, htime, hxp, hyp⟩
    · simpa [hflushed] using hj
    · rw [hflushed, Bool.eq_false_of_not_eq_true hfinal]

/-! ## PASS, RETIRE and the drain after them -/

/-- A pass over `nx` samples makes the next outputs of the closed form, all that lie below its bound (42_engine.md R196,
R216, R218, R220). -/
theorem Work.Follows.pass {nx : Nat} (h : Work.Follows c stream pos first base made w) (hc : c.Streams stream pos)
    (hge : 2 ^ 32 * c.xoff ≤ w.time) (hnx : 0 < nx) (hxsize : nx + c.xoff ≤ c.xsize)
    (hend : base + nx ≤ stream.length)
    (hload : ∀ j < nx + 2 * c.xoff, w.x.read j = some (streamBuffer c.xoff stream (base + j))) :
    ∃ (y : Memory) (count : Nat), Machine.pass c nx w = .done { w with
        y, nout := count, time := w.time + count * c.dt } ∧
      count ≤ c.ysize ∧ y.Written count ∧ (∀ j < count, y.read j = closedForm c stream (made + j)) ∧
      ∀ k < made + count, k < made ∨ k * c.dt < 2 ^ 32 * (base + nx) := by
  have htime := h.time_eq
  have hdt : 0 < c.dt := by
    have hpos : 0 < c.ysize * c.dt := lt_of_lt_of_le (by have := hc.xsize; omega) hc.dt_ge
    exact Nat.pos_of_mul_pos_left hpos
  obtain ⟨count, hcount⟩ := exists_count_below w.time (2 ^ 32 * (c.xoff + nx)) hdt
  have hreaches : ∀ k < count, w.time + k * c.dt < 2 ^ 32 * (c.xoff + nx) := fun k hk => (hcount k).mp hk
  have hlimit : c.limit = c.xsize + c.xoff := rfl
  have hsample : ∀ k < count, sample c w.x (w.time + k * c.dt) = closedForm c stream (made + k) := by
    intro k hk
    have hlt := hreaches k hk
    exact sample_eq_closedForm hc.reach (by rw [Nat.add_mul]; omega) (by omega) (by omega) (by omega)
      fun j hj => hload j (by omega)
  have hsome : ∀ k < count, (sample c w.x (w.time + k * c.dt)).isSome = true := by
    intro k hk
    have hlt := hreaches k hk
    refine sample_isSome hc.nwing hc.rom hc.reach (by omega) (by omega) fun j _ hj => ?_
    rw [hload j (by omega)]
    rfl
  have hroom : count ≤ c.ysize := by
    by_contra hmore
    have hlt := hreaches c.ysize (by omega)
    have hge := hc.dt_ge
    omega
  obtain ⟨y, hy, hrun⟩ := pass_completes hcount hsome hroom
  have hread : ∀ j < count, y.read j = sample c w.x (w.time + j * c.dt) := fun j hj => by
    simpa only [Nat.zero_add] using hy.inside hj
  refine ⟨y, count, hrun, hroom, fun j hj => hread j hj ▸ hsome j hj, fun j hj => (hread j hj).trans (hsample j hj),
    fun k hk => ?_⟩
  by_cases hold : k < made
  · exact .inl hold
  · obtain ⟨j, rfl⟩ : ∃ j, k = made + j := ⟨k - made, by omega⟩
    have hlt := hreaches j (by omega)
    rw [Nat.add_mul]
    omega

/-- RETIRE after a pass that made the outputs `made` to `made + count` - 1: the stream buffer in X begins `shift` words
later (42_engine.md R198 to R200). -/
theorem Work.Follows.retire {shift time count : Nat} {x y : Memory} (h : Work.Follows c stream pos first base made w)
    (hyp : w.yp = 0) (hshift : shift ≤ w.xread) (htime : time + 2 ^ 32 * shift = w.time + count * c.dt)
    (hx : Memory.Filled w.x 0 (w.xread - shift) (fun k => w.x.read (k + shift)) x)
    (hy : ∀ j < count, y.read j = closedForm c stream (made + j))
    (hmade : ∀ k < made + count, k < made ∨ k * c.dt < 2 ^ 32 * (pos + w.used)) :
    Work.Follows c stream pos first (base + shift) (made + count)
      { w with y, nout := count, time, x, xread := w.xread - shift, xp := c.xoff, yp := count } := by
  have hxread_eq := h.xread_eq
  have htime_eq := h.time_eq
  have hmade_eq := h.made_eq
  constructor
  case used_le => exact h.used_le
  case written_le => exact h.written_le
  case xread_eq =>
    change base + shift + (w.xread - shift) = c.xoff + (pos + w.used)
    omega
  case time_eq =>
    rw [Nat.add_mul]
    dsimp only
    omega
  case made_eq =>
    change made + count = first + w.written + count
    omega
  case made_lt => exact fun k hk => (hmade k hk).elim (h.made_lt k) id
  case x_eq =>
    intro j hj
    have hread : x.read j = w.x.read (j + shift) := by simpa only [Nat.zero_add] using hx.inside hj
    dsimp only at hj ⊢
    rw [hread, h.x_eq _ (by omega), Nat.add_assoc, Nat.add_comm shift]
  case y_eq =>
    intro j hj
    refine (hy j hj).trans (congrArg _ ?_)
    change made + j = first + w.written + j
    omega
  case out_eq => exact h.out_eq

/-- A pass, the retiring and the drain after it make and deliver the next outputs of the closed form; in the final
batch they make all that are left (42_engine.md R196 to R201, R217, R221). -/
theorem Work.Follows.passAndDrain {nx : Nat} (h : Work.Follows c stream pos first base made w)
    (hc : c.Streams stream pos) (hge : 2 ^ 32 * c.xoff ≤ w.time) (hlt : w.time < 2 ^ 32 * (c.xoff + 1))
    (hxp : w.xp = c.xoff) (hyp : w.yp = 0) (hnx : 0 < nx) (hxread : w.xread ≤ c.xsize)
    (hload : Work.Loaded c stream base w) (hnormal : w.flushed = false → nx + 2 * c.xoff = w.xread)
    (hlast : w.flushed = true → nx + c.xoff = w.xread) (hend : w.flushed = true → pos + w.used = stream.length) :
    ∃ w' base' made', Machine.passAndDrain c nx w = .done w' ∧ Work.Follows c stream pos first base' made' w' ∧
      Work.Ended c stream pos made' w' ∧ made ≤ made' := by
  have hxread_eq := h.xread_eq
  have hused := h.used_le
  have hinside := hc.inside
  have hdt := hc.dt_le
  have hkeep : nx + c.xoff ≤ w.xread ∧ nx + 2 * c.xoff = w.xread + if w.flushed then c.xoff else 0 := by
    cases hf : w.flushed with
    | false =>
      have := hnormal hf
      simp
      omega
    | true =>
      have := hlast hf
      simp
      omega
  obtain ⟨hkeep, hwords⟩ := hkeep
  obtain ⟨y, count, hpass, hcount, hwritten, hy, hmade⟩ := h.pass hc hge hnx (by omega) (by omega)
    fun j hj => hload j (by omega)
  obtain ⟨-, -, -, -, -, hbound, htime⟩ := pass_done hpass
  obtain ⟨time, creep, hsum, hge', -, hcursor⟩ := retireCursor_rebases hbound
  dsimp only at hsum hbound htime
  have htime := htime (by omega)
  have hshift : w.xp + nx + creep - c.xoff = nx + creep := by omega
  obtain ⟨x, hx, hretire⟩ := retireShift_completes (c := c)
    (w := { w with y, nout := count, time, xp := w.xp + nx + creep }) h.x_written
    (hxread.trans (Nat.le_add_right ..)) (by dsimp only; omega)
  dsimp only at hx hretire
  rw [hshift] at hx hretire
  have h1 := h.retire hyp (by omega) hsum hx hy fun k hk => (hmade k hk).imp_right fun hlt => by omega
  obtain ⟨w', hdrain, h', hused', hflushed'⟩ := h1.drain hc hcount hwritten
  refine ⟨w', _, _, ?_, h', fun hf => ?_, Nat.le_add_right ..⟩
  · rw [Machine.passAndDrain, hpass, Run.done_andThen, hcursor, hretire, Run.done_andThen, hdrain]
  · have hf := hflushed'.symm.trans hf
    have hall := hlast hf
    have hlen := hend hf
    have htime_eq := h.time_eq
    rw [hused', Nat.add_mul]
    exact ⟨hlen, by omega⟩

/-! ## The passes -/

/-- NX of a pass that has eligible samples: what lies between the cursor and the words that the last tap needs
(42_engine.md R193, R194). -/
theorem eligible_toNat (hnx : ¬ eligible c (finalBatch c w) w ≤ 0) :
    0 < (eligible c (finalBatch c w) w).toNat ∧
    (finalBatch c w = true → (eligible c (finalBatch c w) w).toNat + c.xoff = w.xread) ∧
    (finalBatch c w = false → (eligible c (finalBatch c w) w).toNat + 2 * c.xoff = w.xread) := by
  cases hfinal : finalBatch c w <;> simp [hfinal, eligible] at hnx ⊢ <;> omega

/-- A final batch with no eligible sample finds every output made (42_engine.md R221). -/
theorem Work.Follows.ended (h : Work.Follows c stream pos first base made w) (hc : c.Streams stream pos)
    (hge : 2 ^ 32 * c.xoff ≤ w.time) (hflushed : w.flushed = finalBatch c w)
    (hnone : eligible c (finalBatch c w) w ≤ 0) : Work.Ended c stream pos made w := by
  intro hf
  have hfinal := hflushed.symm.trans hf
  have hend := finalBatch_end hc hfinal
  have htime := h.time_eq
  have hxread := h.xread_eq
  simp only [hfinal, eligible, if_true] at hnone
  exact ⟨hend, by omega⟩

/-- PROCESS ends after a pass that leaves output pending (42_engine.md R202). -/
theorem yp_eq_zero_of_not_stops (h : ¬ stopsAfterPass c w = true) : w.yp = 0 := by
  by_contra hne
  exact h (by simp [stopsAfterPass, Nat.pos_of_ne_zero hne])

/-- The passes of a PROCESS carry the stream on (42_engine.md R188, R220, R221). -/
theorem Work.Follows.passes (hc : c.Streams stream pos) : ∀ (bound : Nat) {base made : Nat} {w : Work},
    Work.Follows c stream pos first base made w → Work.Fits c w → w.yp = 0 → w.flushed = false →
    ∃ w' base' made', Machine.passes c bound w = .done w' ∧ Work.Follows c stream pos first base' made' w' ∧
      Work.Ended c stream pos made' w' ∧ made ≤ made'
  | 0, base, made, w, h, _, _, hunflushed => ⟨w, base, made, rfl, h, by simp [Work.Ended, hunflushed], le_rfl⟩
  | bound + 1, base, made, w, h, hfits, hyp, hunflushed => by
    obtain ⟨hlow, hhigh⟩ := hfits.unflushed hunflushed
    have hxsize := hc.xsize
    obtain ⟨w1, hpull, h1, hload, hxread1, hflushed, htime, hxp, hyp1⟩ := h.pullAndPad hc (by omega) hunflushed
    rw [Machine.passes, hpull]
    simp only [Run.done_andThen]
    split
    · next hnone => exact ⟨w1, base, made, rfl, h1, h1.ended hc (htime ▸ hfits.time_ge) hflushed hnone, le_rfl⟩
    · next hsome =>
      obtain ⟨hnx, hlast, hnormal⟩ := eligible_toNat hsome
      have hge := htime ▸ hfits.time_ge
      have hlt := htime ▸ hfits.time_lt
      have hxp := hxp.trans hfits.xp_eq
      rw [← hflushed] at hlast hnormal hnx ⊢
      obtain ⟨w2, base2, made2, hpass, h2, hended, hmade⟩ := h1.passAndDrain hc hge hlt hxp (hyp1.trans hyp) hnx
        hxread1 hload hnormal hlast fun hf => finalBatch_end hc (hflushed.symm.trans hf)
      obtain ⟨hfits2, hflushed2, hused2⟩ :=
        passAndDrain_fits hpass hc.dt_le hge hlt hxp h1.x_written hnx hnormal hlast
      rw [hpass, Run.done_andThen]
      split
      · exact ⟨w2, base2, made2, rfl, h2, hended, hmade⟩
      · next hgoes =>
        have hunflushed2 : w2.flushed = false := by
          rw [hflushed2, hflushed, ← Bool.not_eq_true]
          exact fun hf => hgoes (stopsAfterPass_of_used (hused2.trans (used_of_finalBatch hf)))
        obtain ⟨w', base', made', hrun, h', hended', hmade'⟩ := h2.passes hc bound hfits2
          (yp_eq_zero_of_not_stops hgoes) hunflushed2
        exact ⟨w', base', made', hrun, h', hended', hmade.trans hmade'⟩

/-- A PROCESS on the stream is done, and carries the stream on (42_engine.md R188, R219 to R221). -/
theorem Work.Follows.processRun (h : Work.Follows c stream pos first base made w) (hc : c.Streams stream pos)
    (hfits : Work.Fits c w) (hended : Work.Ended c stream pos made w) :
    ∃ w' base' made', Machine.processRun c w = .done w' ∧ Work.Follows c stream pos first base' made' w' ∧
      Work.Ended c stream pos made' w' ∧ made ≤ made' := by
  obtain ⟨w1, hdrain, h1, hused, hflushed⟩ := h.drain hc hfits.yp_le hfits.y_written
  obtain ⟨hfits1, -⟩ := drain_fits hdrain hfits
  have hended1 : Work.Ended c stream pos made w1 := by rwa [Work.Ended, hused, hflushed]
  rw [Machine.processRun, hdrain, Run.done_andThen]
  split
  · exact ⟨w1, base, made, rfl, h1, hended1, le_rfl⟩
  · next hgoes =>
    rw [not_or, Bool.not_eq_true] at hgoes
    exact h1.passes hc _ hfits1 (Nat.eq_zero_of_not_pos hgoes.1) hgoes.2

end

end Sys2Proof.Machine
end

section
/-! PROOFS. A PROCESS in a state that tracks a stream (spec/42_engine.md R190, R203, R216 to R221, spec/20_memory.md
R88). -/

namespace Sys2Proof.Machine

/-! ## The steps of an accepted factor -/

/-- A larger dividend gives no smaller rounded quotient. -/
theorem rneDiv_mono {n n' d : Nat} (hd : 0 < d) (h : n ≤ n') : rneDiv n d ≤ rneDiv n' d := by
  obtain ⟨-, hlow, -⟩ := rneDiv_nearestEven (n := n) hd
  obtain ⟨hup, -⟩ := rneDiv_nearestEven (n := n') hd
  by_contra hlt
  have heq : n = n' := by nlinarith
  exact hlt (heq ▸ le_rfl)

/-- A larger factor has no smaller table step (41_filter_kernel.md R152). -/
theorem tableStep_mono {a f : F64} (ha : F64.Proper a) (hf : F64.Proper f) (h : a.toNat ≤ f.toNat) (npc : Nat) :
    tableStep npc a ≤ tableStep npc f := by
  rw [tableStep, tableStep, factorNum_eq ha, factorNum_eq hf]
  exact min_le_min_left _ (rneDiv_mono factorDen_pos (Nat.mul_le_mul_left _ ((F64.units_le_units_iff a f).mpr h)))

/-- No accepted factor has a shorter time step than the largest one (42_engine.md R190, R218). -/
theorem timeStep_ge_of_accepted {a b f : F64} (hab : boundsOk a b = true) (haf : f64Le a f = true)
    (hfb : f64Le f b = true) : timeStep b ≤ timeStep f := by
  obtain ⟨-, -, -, hb⟩ := proper_of_boundsOk hab
  obtain ⟨hf0, hf, -⟩ := proper_of_accepted hab haf hfb
  obtain ⟨-, -, hkey⟩ := (f64Le_iff ..).mp hfb
  have hinf : binary64.infBits < 2 ^ 63 := by decide
  rw [F64.key, F64.key, if_pos (hf.trans hinf), if_pos (hb.trans hinf), Int.ofNat_le] at hkey
  rw [timeStep, timeStep, factorNum_eq hb, factorNum_eq hf]
  exact rneDiv_antitone ((F64.units_pos_iff f).mpr hf0) ((F64.units_le_units_iff f b).mpr hkey)

/-- The taps of an accepted factor are no nearer in the table than those of the least one (42_engine.md R216). -/
theorem tableStep_le_step {s : State} (last : Bool) (hab : boundsOk s.cfgMinFactor s.cfgMaxFactor = true)
    (haf : f64Le s.cfgMinFactor s.opFactor = true) (hfb : f64Le s.opFactor s.cfgMaxFactor = true) :
    tableStep s.params.npc s.cfgMinFactor ≤ (s.call last).step := by
  obtain ⟨-, ha, -⟩ := proper_of_boundsOk hab
  obtain ⟨-, hf, hle⟩ := proper_of_accepted hab haf hfb
  change _ ≤ (match modeOf s.opFactor with
    | .up => 2 ^ 32 * s.params.npc
    | .ud => tableStep s.params.npc s.opFactor)
  cases modeOf s.opFactor with
  | up => exact Nat.min_le_left ..
  | ud => exact tableStep_mono ha hf hle _

/-! ## From the state to what PROCESS works on, and back -/

section
variable {s : State} {last : Bool} {stream : List Sample} {pos made base : Nat}

/-- The call of an accepted PROCESS that offers the next samples of a stream. -/
theorem call_streams (hinv : s.StreamInv) (hreach : s.SizesReach) (hrom : RomTotal s.params s.cfgQuality)
    (hacc : s.Accepts) (hoffer : s.inPort.take s.opInCount.toNat = (stream.drop pos).take s.opInCount.toNat)
    (hinside : pos + s.opInCount.toNat ≤ stream.length)
    (hlast : last = true → pos + s.opInCount.toNat = stream.length) : (s.call last).Streams stream pos := by
  obtain ⟨hrefusal, hpresented, hready⟩ := hacc
  obtain ⟨hfault, hconf, hmin, hmax, -⟩ := processRefusal_eq_none.mp hrefusal
  obtain ⟨⟨-, hxsize, -, -, -, hnwing⟩, -, -, hbounds, hstep⟩ := hinv.2.2 hconf hfault
  obtain ⟨hwing, hpass⟩ := hreach
  exact {
    offer := fun k hk => by
      have hk : k < s.opInCount.toNat := hk
      calc s.inPort[k]? = (s.inPort.take s.opInCount.toNat)[k]? := (List.getElem?_take_of_lt hk).symm
        _ = ((stream.drop pos).take s.opInCount.toNat)[k]? := by rw [hoffer]
        _ = stream[pos + k]? := by rw [List.getElem?_take_of_lt hk, List.getElem?_drop]
    presented := hpresented
    inside := hinside
    last := hlast
    ready := hready
    xsize := by change 2 * s.xoff.toNat < s.xsize.toNat; omega
    dt_le := (timeStep_le_of_accepted hbounds hmin hmax).trans hstep
    dt_ge := hpass.trans (Nat.mul_le_mul_left _ (timeStep_ge_of_accepted hbounds hmin hmax))
    reach := hwing.trans (Nat.mul_le_mul_left _ (tableStep_le_step last hbounds hmin hmax))
    nwing := hnwing
    rom := hrom }

/-- A PROCESS starts where the state stands in the stream. -/
theorem work_follows (h : s.Tracks stream pos made base) (last : Bool) :
    Work.Follows (s.call last) stream pos (made - s.yp.toNat) base made s.work ∧
      Work.Ended (s.call last) stream pos made s.work := by
  obtain ⟨-, hyp, hxread, htime, hx, hy, hmade, hended⟩ := h
  have hform : closedForm (s.call false) = closedForm (s.call last) := closedForm_eq rfl rfl rfl
  exact ⟨{
    used_le := Nat.zero_le _
    written_le := Nat.zero_le _
    xread_eq := hxread
    time_eq := htime
    made_eq := by change made = made - s.yp.toNat + 0 + s.yp.toNat; omega
    made_lt := hmade
    x_eq := hx
    y_eq := hform ▸ hy
    out_eq := rfl }, hended⟩

/-- No register cuts what a PROCESS within the invariants leaves. -/
theorem finishProcess_toNat {w : Work} (hsizes : s.SizesFit) (hfits : Work.Fits (s.call last) w)
    (hused : w.used ≤ s.opInCount.toNat) (hwritten : w.written ≤ s.opOutRoom.toNat) :
    (s.finishProcess w).time.toNat = w.time ∧ (s.finishProcess w).xread.toNat = w.xread ∧
      (s.finishProcess w).yp.toNat = w.yp ∧ (s.finishProcess w).resInUsed.toNat = w.used ∧
      (s.finishProcess w).resOutWritten.toNat = w.written := by
  have htime : w.time < 2 ^ 32 * (s.xoff.toNat + 1) := hfits.time_lt
  have hyp : w.yp ≤ s.ysize.toNat := hfits.yp_le
  have hxread : w.xread ≤ 2 * s.xoff.toNat := by
    cases hf : w.flushed with
    | false => exact (hfits.unflushed hf).2
    | true => exact (hfits.flushed hf).trans (Nat.le_mul_of_pos_left _ (by decide))
  obtain ⟨-, hxsize, -⟩ := hsizes
  refine ⟨?_, ?_, ?_, ?_, ?_⟩ <;> exact Nat.mod_eq_of_lt (by omega)

/-- A PROCESS ends where its work stands in the stream. -/
theorem finishProcess_tracks {first : Nat} {w : Work} (hc : (s.call last).Streams stream pos)
    (hsizes : s.SizesFit) (hfits : Work.Fits (s.call last) w)
    (h : Work.Follows (s.call last) stream pos first base made w)
    (hended : Work.Ended (s.call last) stream pos made w) :
    (s.finishProcess w).Tracks stream (pos + (s.finishProcess w).resInUsed.toNat) made base := by
  obtain ⟨htime, hxread, hyp, hin, -⟩ := finishProcess_toNat hsizes hfits h.used_le h.written_le
  have hform : closedForm ((s.finishProcess w).call false) = closedForm (s.call last) := closedForm_eq rfl rfl rfl
  have hmade := h.made_eq
  rw [State.Tracks, htime, hxread, hyp, hin, hform]
  refine ⟨(Nat.add_le_add_left h.used_le _).trans hc.inside, by omega, h.xread_eq, h.time_eq, h.x_eq, fun j hj => ?_,
    h.made_lt, hended⟩
  rw [show made - w.yp + j = first + w.written + j by omega]
  exact h.y_eq j hj

end

/-- Settles O58: every part of a PROCESS carries the stream on, and no part of it faults or waits. -/
theorem processContinuesTheStream : Obligations.ProcessContinuesTheStream := by
  intro s t last stream pos made base hinv hreach hrom hacc htracks hoffer hinside hlast h
  have hc : (s.call last).Streams stream pos := call_streams hinv hreach hrom hacc hoffer hinside hlast
  obtain ⟨hfault, hconf, -⟩ := processRefusal_eq_none.mp hacc.1
  obtain ⟨hsizes, hcursor, hwords, -⟩ := hinv.2.2 hconf hfault
  have hfits := work_fits last hcursor hwords
  obtain ⟨hfollows, hended⟩ := work_follows htracks last
  obtain ⟨w, base', made', hrun, hfollows', hended', hle⟩ := hfollows.processRun hc hfits hended
  obtain rfl : s.finishProcess w = t := by
    rw [exec, execProcess, hacc.1, hrun] at h
    exact Host.Outcome.next.inj h
  have hfits' := processRun_fits hc.dt_le hrun hfits
  obtain ⟨-, -, hyp, -, hout⟩ := finishProcess_toNat hsizes hfits' hfollows'.used_le hfollows'.written_le
  have hmade := hfollows'.made_eq
  refine ⟨made', base', finishProcess_tracks hc hsizes hfits' hfollows' hended', hle, ?_, ?_⟩
  · rw [hout, State.finishProcess_outPort, List.map_append, hfollows'.out_eq]
  · rw [hyp, hout]
    omega

end Sys2Proof.Machine
end

section
/-! PROOFS. Refused accesses (spec/20_memory.md R76, R80, spec/60_exceptions.md R241) and the canonical form of X and Y
(spec/20_memory.md R84, R85). -/

namespace Sys2Proof.Machine

/-! ## Refused accesses -/

section
variable {s : State} {width address : Nat} {v : Word} {rest : List HostEvent}

/-- An idle block answers a refused access with a bus error and does nothing else. -/
theorem serveIdle_refused (hacc : accessed s.params width address = none)
    (hbus : s.bus = .read width address :: rest ∨ s.bus = .write width address v :: rest) :
    serveIdle s = .next { s with bus := rest, answer := some .busError } := by
  obtain hbus | hbus := hbus
  · simp only [serveIdle, hbus, readAccess, hacc]
  · simp only [serveIdle, hbus, writeAccess, hacc]

/-- A busy block answers a refused access in the same way. -/
theorem serveWhileBusy_refused (hacc : accessed s.params width address = none)
    (hbus : s.bus = .read width address :: rest ∨ s.bus = .write width address v :: rest) :
    serveWhileBusy s = { s with bus := rest, answer := some .busError } := by
  obtain hbus | hbus := hbus
  · simp only [serveWhileBusy, hbus, readWhileBusy, hacc]
  · simp only [serveWhileBusy, hbus, writeWhileBusy, hacc]

end

/-- Settles O9: in each condition of the block a step serves the access, which names no register. -/
theorem refusedAccessChangesNothing : Obligations.RefusedAccessChangesNothing := by
  intro s width address v rest hrefused hbus
  have hacc := accessed_eq_none.mpr hrefused
  refine ⟨fun hr => ?_, fun i k hr hleft => ?_, fun i u hwait => ?_⟩
  · exact (step_idle hr).trans (serveIdle_refused hacc hbus)
  · exact (step_counting hr hleft).trans
      (congrArg _ (serveWhileBusy_refused (s := { s with busyLeft := k }) hacc hbus))
  · obtain rfl := hwait.eq
    exact (step_waiting hwait).trans (congrArg _ (serveWhileBusy_refused hacc hbus))

/-! ## The canonical form of X and Y -/

/-- Both commands keep the memories canonical: they empty them, fill them with zeros or unspecified words, or write
words of them. -/
theorem exec_keeps_canonical {i : Instr} {s t : State} (hs : s.MemoriesCanonical) (h : exec i s = .next t) :
    t.MemoriesCanonical := by
  cases i with
  | config quality interp =>
    obtain ⟨-, rfl⟩ | ⟨-, code, -, rfl⟩ | ⟨-, q, z, -, rfl⟩ := execConfig_cases h
    · exact hs
    · exact ⟨Memory.wf_nil, Memory.wf_nil⟩
    · exact ⟨Memory.wf_zeros _, Memory.wf_nil⟩
  | process last =>
    obtain ⟨code, -, rfl⟩ | ⟨-, w, hw, rfl⟩ | ⟨-, cause, w, -, rfl⟩ | ⟨-, w, -, rfl⟩ := execProcess_cases h
    · exact hs
    · have hreach := processRun_reaches hw
      exact ⟨hreach.x.wf hs.1, hreach.y.wf hs.2⟩
    · exact ⟨Memory.wf_unspecified _ _, Memory.wf_unspecified _ _⟩
    · exact hs

/-- Settles O56: serving an event leaves the memories alone or empties them, and both commands keep them canonical. -/
theorem stepKeepsMemoriesCanonical : Obligations.StepKeepsMemoriesCanonical := by
  intro s t hs h
  obtain hserved | ⟨i, u, -, hu, he⟩ := step_effect h
  · cases hserved with
    | quiet hsame => exact hsame.transport (fun _ => Iff.rfl) hs
    | dropped _ _ hsame => exact hsame.transport (s := { s with overrun := true }) (fun _ => Iff.rfl) hs
    | reset _ _ => exact ⟨Memory.wf_nil, Memory.wf_nil⟩
  · exact exec_keeps_canonical (hu.transport (fun _ => Iff.rfl) hs) he

end Sys2Proof.Machine
end

section
/-! PROOFS. Command words and their bytes: the encoder, the table and the byte order of words and samples
(spec/30_encoding.md R100 to R110, spec/20_memory.md R77), and the tiers that CONFIG refuses (spec/42_engine.md
R183). -/

namespace Sys2Proof.Machine

/-! ## Commands and their words -/

/-- The commands that a command word can spell, in the order of 30_encoding.md R108. -/
def spelledCommands : List Instr :=
  [.config 0 false, .config 0 true, .config 1 false, .config 1 true, .config 2 false, .config 2 true,
   .config 3 false, .config 3 true, .process false, .process true]

theorem wellFormed_iff_mem_spelledCommands (i : Instr) : i.WellFormed ↔ i ∈ spelledCommands := by
  constructor
  · intro h
    cases i with
    | config quality interp =>
      have hq : quality < 4 := of_decide_eq_true h
      interval_cases quality <;> cases interp <;> decide
    | process last => cases last <;> decide
  · exact (by decide : ∀ i ∈ spelledCommands, i.WellFormed) i

/-- The decoder reads back what the encoder spelled. -/
theorem decode_encode {i : Instr} (h : i.WellFormed) : decode (encode i) = .ok i :=
  (by decide : ∀ i ∈ spelledCommands, decode (encode i) = .ok i) i ((wellFormed_iff_mem_spelledCommands i).mp h)

/-- The number of a one-bit field, from the flag it stands for. -/
theorem toNat_beq_one_of_lt {n : Nat} (h : n < 2) : (n == 1).toNat = n := by
  interval_cases n <;> rfl

/-- A decoded word has no bit that the command does not account for (30_encoding.md R105). -/
theorem encode_of_decode {w : Word} {i : Instr} (h : decode w = .ok i) : i.WellFormed ∧ encode i = w := by
  have hw := w.isLt
  unfold decode at h
  split_ifs at h with hrsv hconfig hlast hprocess hfields <;> cases h
  · have hflag : (field w 5 5 == 1).toNat = field w 5 5 := toNat_beq_one_of_lt (Nat.mod_lt _ (by decide))
    refine ⟨decide_eq_true (Nat.mod_lt _ (by decide)), BitVec.eq_of_toNat_eq ?_⟩
    rw [encode, hflag, BitVec.toNat_ofNat]
    simp only [field] at *
    omega
  · have hflag : (field w 4 4 == 1).toNat = field w 4 4 := toNat_beq_one_of_lt (Nat.mod_lt _ (by decide))
    refine ⟨rfl, BitVec.eq_of_toNat_eq ?_⟩
    rw [encode, hflag, BitVec.toNat_ofNat]
    simp only [field] at *
    omega

/-- Decoding is the inverse of encoding on the words of well-formed commands, and refuses every other word. -/
theorem decode_eq_ok_iff {w : Word} {i : Instr} : decode w = .ok i ↔ i.WellFormed ∧ encode i = w :=
  ⟨encode_of_decode, fun ⟨hi, hw⟩ => hw ▸ decode_encode hi⟩

/-- A command survives the eight bytes that the bus carries. -/
theorem decodeBytes_encodeBytes {i : Instr} (h : i.WellFormed) : decodeBytes (encodeBytes i) = .ok i :=
  (decodeBytes_bytesOfWord _).trans (decode_encode h)

/-- A command survives the form of a table word. -/
theorem decodeTableWord_encode {i : Instr} (h : i.WellFormed) : decodeTableWord 64 (encode i).toNat = some i := by
  rw [decodeTableWord_eq_some, Nat.mod_eq_of_lt (encode i).isLt, BitVec.ofNat_toNat, BitVec.setWidth_eq]
  exact decode_encode h

/-! ## Bytes of words and samples -/

theorem bytesOfWord_getElem? (w : Word) {k : Nat} (h : k < 8) :
    (bytesOfWord w)[k]? = some (w.extractLsb' (8 * k) 8) := by
  rw [bytesOfWord, List.getElem?_map, List.getElem?_range h, Option.map_some, field,
    show 8 * k + 7 + 1 - 8 * k = 8 by omega]
  refine congrArg some (BitVec.eq_of_toNat_eq ?_)
  rw [BitVec.toNat_ofNat, BitVec.extractLsb'_toNat, Nat.mod_mod, Nat.shiftRight_eq_div_pow]

theorem bytesOfSample_getElem? (v : Sample) {k : Nat} (h : k < 4) :
    (bytesOfSample v)[k]? = some (v.extractLsb' (8 * k) 8) := by
  rw [bytesOfSample, List.getElem?_map, List.getElem?_range h, Option.map_some]
  refine congrArg some (BitVec.eq_of_toNat_eq ?_)
  rw [BitVec.toNat_ofNat, BitVec.extractLsb'_toNat, Nat.shiftRight_eq_div_pow]

theorem bytesOfSample_eq (v : Sample) : bytesOfSample v =
    [BitVec.ofNat 8 v.toNat, BitVec.ofNat 8 (v.toNat / 2 ^ 8), BitVec.ofNat 8 (v.toNat / 2 ^ 16),
     BitVec.ofNat 8 (v.toNat / 2 ^ 24)] := by
  simp [bytesOfSample, show List.range 4 = [0, 1, 2, 3] from rfl]

/-- The bytes of a sample spell the sample. -/
theorem ofNat_natOfBytes_bytesOfSample (v : Sample) : BitVec.ofNat 32 (natOfBytes (bytesOfSample v)) = v := by
  have hv := v.isLt
  refine BitVec.eq_of_toNat_eq ?_
  simp only [bytesOfSample_eq, natOfBytes, BitVec.toNat_ofNat]
  omega

/-- Four bytes are those of the sample that they spell. -/
theorem bytesOfSample_natOfBytes (b0 b1 b2 b3 : Byte) :
    bytesOfSample (BitVec.ofNat 32 (natOfBytes [b0, b1, b2, b3])) = [b0, b1, b2, b3] := by
  have h0 := b0.isLt
  have h1 := b1.isLt
  have h2 := b2.isLt
  have h3 := b3.isLt
  simp only [bytesOfSample_eq, natOfBytes, List.cons.injEq, and_true, ← BitVec.toNat_inj, BitVec.toNat_ofNat]
  omega

theorem bytesOfSamples_cons (v : Sample) (samples : List Sample) :
    bytesOfSamples (v :: samples) = bytesOfSample v ++ bytesOfSamples samples := List.flatMap_cons

/-- A sample's bytes in front of others are read as that sample. -/
theorem samplesOfBytes_bytesOfSample_append (v : Sample) (rest : List Byte) :
    samplesOfBytes (bytesOfSample v ++ rest) = (samplesOfBytes rest).map (v :: ·) := by
  have hv := ofNat_natOfBytes_bytesOfSample v
  rw [bytesOfSample_eq] at hv ⊢
  simp only [List.cons_append, List.nil_append, samplesOfBytes, hv]

theorem samplesOfBytes_bytesOfSamples (samples : List Sample) :
    samplesOfBytes (bytesOfSamples samples) = some samples := by
  induction samples with
  | nil => rfl
  | cons v samples ih => rw [bytesOfSamples_cons, samplesOfBytes_bytesOfSample_append, ih, Option.map_some]

theorem bytesOfSamples_of_samplesOfBytes {bytes : List Byte} {samples : List Sample}
    (h : samplesOfBytes bytes = some samples) : bytesOfSamples samples = bytes := by
  induction bytes using samplesOfBytes.induct generalizing samples with
  | case1 =>
    cases h
    rfl
  | case2 b0 b1 b2 b3 rest ih =>
    obtain ⟨later, hlater, rfl⟩ := Option.map_eq_some_iff.mp h
    rw [bytesOfSamples_cons, bytesOfSample_natOfBytes, ih hlater]
    rfl
  | case3 bytes hnil hfour =>
    simp [samplesOfBytes] at h

/-- Settles O1: the decoder inverts the encoder in each form of a word, and four bytes and a sample determine each
other. -/
theorem decodeEncodeRoundTrip : Obligations.DecodeEncodeRoundTrip :=
  ⟨fun _ hi => ⟨decode_encode hi, decodeBytes_encodeBytes hi, decodeTableWord_encode hi⟩,
    fun _ _ => encode_of_decode,
    fun w => ⟨rfl, fun _ => bytesOfWord_getElem? w⟩,
    fun v => ⟨rfl, fun _ => bytesOfSample_getElem? v⟩,
    samplesOfBytes_bytesOfSamples,
    fun _ _ => bytesOfSamples_of_samplesOfBytes⟩

/-! ## The table of 30_encoding.md R108 -/

/-- The bits of a word under a mask of `n` bits at position `p` are the digit of the word that stands there. -/
theorem and_field_mask (w : Word) (n p : Nat) :
    w &&& BitVec.ofNat 64 ((2 ^ n - 1) * 2 ^ p) = BitVec.ofNat 64 (w.toNat / 2 ^ p % 2 ^ n * 2 ^ p) := by
  refine BitVec.eq_of_getLsbD_eq fun i hi => ?_
  simp only [BitVec.getLsbD_and, BitVec.getLsbD_ofNat, Nat.testBit_mul_two_pow, Nat.testBit_two_pow_sub_one,
    Nat.testBit_mod_two_pow, Nat.testBit_div_two_pow, hi, decide_true, Bool.true_and]
  by_cases hp : p ≤ i
  · simp only [hp, decide_true, Bool.true_and, Nat.sub_add_cancel hp, Bool.and_comm, BitVec.getLsbD]
  · simp [hp]

/-- A word that matches a row is the row's match value with some filling of its free field, the `n` bits at
position `p`. -/
theorem exists_fill_of_match {w m v : Word} {n p : Nat} (hm : ~~~m = BitVec.ofNat 64 ((2 ^ n - 1) * 2 ^ p))
    (h : w &&& m = v) : ∃ k < 2 ^ n, w = v ||| BitVec.ofNat 64 (k * 2 ^ p) := by
  refine ⟨w.toNat / 2 ^ p % 2 ^ n, Nat.mod_lt _ (Nat.two_pow_pos n), ?_⟩
  calc w = w &&& (m ||| ~~~m) := by rw [BitVec.or_not_self, BitVec.and_allOnes]
    _ = w &&& m ||| w &&& ~~~m := BitVec.and_or_distrib_left
    _ = v ||| BitVec.ofNat 64 (w.toNat / 2 ^ p % 2 ^ n * 2 ^ p) := by rw [h, hm, and_field_mask]

/-- The row of CONFIG: its free field is [7:5]. -/
theorem decode_eq_config_iff {w : Word} {quality : Nat} {interp : Bool} : decode w = .ok (.config quality interp) ↔
    w &&& 0xFFFFFFFFFFFFFF1F#64 = 0x1#64 ∧ quality = ((w >>> 6) &&& 3#64).toNat ∧ interp = w.getLsbD 5 := by
  constructor
  · intro h
    obtain ⟨hwf, rfl⟩ := encode_of_decode h
    have hfields : ∀ quality < 4, ∀ interp, let w := encode (.config quality interp)
        quality = ((w >>> 6) &&& 3#64).toNat ∧ interp = w.getLsbD 5 := by decide
    exact ⟨Laws.TableMatch.config quality interp hwf, hfields quality (of_decide_eq_true hwf) interp⟩
  · rintro ⟨hmatch, rfl, rfl⟩
    obtain ⟨k, hk, rfl⟩ := exists_fill_of_match (n := 3) (p := 5) (by decide) hmatch
    exact (by decide : ∀ k < 8, let w := 0x1#64 ||| BitVec.ofNat 64 (k * 2 ^ 5)
      decode w = .ok (.config ((w >>> 6) &&& 3#64).toNat (w.getLsbD 5))) k hk

/-- The row of PROCESS: its free field is bit 4. -/
theorem decode_eq_process_iff {w : Word} {last : Bool} : decode w = .ok (.process last) ↔
    w &&& 0xFFFFFFFFFFFFFFEF#64 = 0x2#64 ∧ last = w.getLsbD 4 := by
  constructor
  · intro h
    obtain ⟨hwf, rfl⟩ := encode_of_decode h
    have hfield : ∀ last, last = (encode (.process last)).getLsbD 4 := by decide
    exact ⟨Laws.TableMatch.process last hwf, hfield last⟩
  · rintro ⟨hmatch, rfl⟩
    obtain ⟨k, hk, rfl⟩ := exists_fill_of_match (n := 1) (p := 4) (by decide) hmatch
    exact (by decide : ∀ k < 2, let w := 0x2#64 ||| BitVec.ofNat 64 (k * 2 ^ 4)
      decode w = .ok (.process (w.getLsbD 4))) k hk

/-- The accepted words are those of the spelled commands. -/
theorem decode_isOk_iff_mem (w : Word) : (∃ i, decode w = .ok i) ↔ w ∈ spelledCommands.map encode := by
  simp only [decode_eq_ok_iff, wellFormed_iff_mem_spelledCommands, List.mem_map]

/-- Settles O2: each row by its match value and free field, the list as the words of the spelled commands. -/
theorem acceptedWordsAreTheTable : Obligations.AcceptedWordsAreTheTable :=
  fun w => ⟨fun _ _ => decode_eq_config_iff, fun _ => decode_eq_process_iff, decode_isOk_iff_mem w⟩

/-- Settles O4: each listed word is the encoding of its command. -/
theorem listedWordsDecode : Obligations.ListedWordsDecode :=
  ⟨decode_encode (i := .config 0 false) rfl, decode_encode (i := .config 0 true) rfl,
    decode_encode (i := .config 1 false) rfl, decode_encode (i := .config 1 true) rfl,
    decode_encode (i := .config 3 true) rfl, decode_encode (i := .process false) rfl,
    decode_encode (i := .process true) rfl⟩

/-! ## The tiers that CONFIG refuses -/

/-- A CONFIG that its checks refuse ends as a failed construction (42_engine.md R185). -/
theorem exec_config_of_error {s : State} {quality : Nat} {interp : Bool} {code : ErrCode} (hf : s.fault = none)
    (h : configOutcome quality s = .error code) : exec (.config quality interp) s = .next (s.failConfig code) := by
  simp [exec, execConfig, hf, h]

/-- No tier stands behind QUALITY 2 or more (30_encoding.md R110). -/
theorem tierOf_eq_none {quality : Nat} (h : 2 ≤ quality) : tierOf quality = none := by
  match quality, h with
  | _ + 2, _ => rfl

/-- Without a tier CONFIG fails, by the bounds where they are bad and by the tier otherwise (60_exceptions.md R236). -/
theorem configOutcome_of_no_tier {quality : Nat} {s : State} (h : tierOf quality = none) :
    configOutcome quality s = .error (if boundsOk s.opMinFactor s.opMaxFactor then .quality else .bounds) := by
  obtain ⟨hb, e⟩ | ⟨hb, -, e⟩ | ⟨_, -, hq, -⟩ | ⟨_, _, -, hq, -⟩ := configOutcome_cases quality s
  · simp [e, hb]
  · simp [e, hb]
  · simp [h] at hq
  · simp [h] at hq

/-- Settles O23: QUALITY 2 and 3 survive the encoder, and no tier stands behind them. -/
theorem configRefusesUnsupportedTiers : Obligations.ConfigRefusesUnsupportedTiers :=
  ⟨fun _ _ _ hlt => decode_encode (decide_eq_true hlt),
    fun _ _ _ hf hq => exec_config_of_error hf (configOutcome_of_no_tier (tierOf_eq_none hq))⟩

end Sys2Proof.Machine
end

section
/-! PROOFS. The tables IMP and IMPD of a tier (spec/40_filter_design.md R130, R131). -/

namespace Sys2Proof.Machine

/-! ## The tables of a tier -/

/-- Negation of a binary32 flips its sign bit. -/
theorem f32Neg_eq_xor (a : Sample) : f32Neg a = a ^^^ 0x80000000#32 := by
  unfold f32Neg Format.neg
  rw [show 2 ^ (binary32.expBits + binary32.fracBits) = (0x80000000#32).toNat from rfl, ← BitVec.toNat_xor,
    BitVec.ofNat_toNat, BitVec.setWidth_eq]

section
variable {p : Params} {q : Quality} {h : Nat} {here next : Sample}

theorem imp_eq_none (hh : p.nwing q ≤ h) : p.imp q h = none := if_neg (Nat.not_lt.mpr hh)

theorem lt_nwing_of_imp (hi : p.imp q h = some here) : h < p.nwing q := by
  by_contra hh
  simp [imp_eq_none (Nat.le_of_not_lt hh)] at hi

/-- The last difference leads from the last entry to zero. -/
theorem impd_of_last (hlast : h + 1 = p.nwing q) (hi : p.imp q h = some here) :
    p.impd q h = some (f32Neg here) := by
  rw [Params.impd, if_pos hlast, hi, Option.map_some]

/-- An entry that has a next one is not the last, so its difference leads to the next one. -/
theorem impd_of_next (hi : p.imp q h = some here) (hn : p.imp q (h + 1) = some next) :
    p.impd q h = some (f32Sub next here) := by
  rw [Params.impd, if_neg (lt_nwing_of_imp hn).ne, hn, hi]

theorem impd_eq_none (hh : p.nwing q ≤ h) : p.impd q h = none := by
  rw [Params.impd, if_neg (by omega), imp_eq_none (by omega : p.nwing q ≤ h + 1)]

end

/-- Settles O36: an entry is the last one or has a next one, and past the end there is neither. -/
theorem differenceTableRule : Obligations.DifferenceTableRule :=
  fun _ _ _ here _ hi =>
    ⟨fun hlast => f32Neg_eq_xor here ▸ impd_of_last hlast hi, impd_of_next hi,
      fun _ hg => ⟨imp_eq_none hg, impd_eq_none hg⟩⟩

end Sys2Proof.Machine
end

section
/-! PROOFS. NaN, infinities, zeros and the neutral operands of binary32 arithmetic (spec/41_filter_kernel.md R168 to
R170). -/

namespace Sys2Proof.Machine

/-! ## Results of addition and multiplication by what the operands stand for -/

section
variable {F : Format} {a b m den : Nat}

protected theorem Format.add_comm (F : Format) (a b : Nat) : F.add a b = F.add b a := by
  unfold Format.add
  cases F.datum a <;> cases F.datum b
  case inf.inf s t => cases s <;> cases t <;> rfl
  case fin.fin s m t n => simp only [Int.add_comm (signed t n), Bool.and_comm t]
  all_goals rfl

protected theorem Format.mul_comm (F : Format) (a b : Nat) : F.mul a b = F.mul b a := by
  unfold Format.mul
  cases F.datum a <;> cases F.datum b <;> simp only [Bool.xor_comm, Nat.mul_comm]

theorem Format.add_of_nan (h : F.datum a = .nan) (b : Nat) : F.add a b = F.qnan := by
  unfold Format.add
  rw [h]

theorem Format.mul_of_nan (h : F.datum a = .nan) (b : Nat) : F.mul a b = F.qnan := by
  unfold Format.mul
  rw [h]

/-- A sum is the canonical NaN or a sign above a pattern up to infinity. -/
theorem Format.add_cases (F : Format) (a b : Nat) :
    F.add a b = F.qnan ∨ ∃ s m, m ≤ F.infBits ∧ F.add a b = F.pack s m := by
  unfold Format.add
  cases F.datum a <;> cases F.datum b
  case fin.fin =>
    dsimp only
    split
    · exact .inr ⟨_, 0, Nat.zero_le _, rfl⟩
    · exact .inr ⟨_, _, F.roundMag_le_infBits _ _, rfl⟩
  case inf.inf =>
    dsimp only
    split
    · exact .inr ⟨_, _, le_rfl, rfl⟩
    · exact .inl rfl
  case inf.fin => exact .inr ⟨_, _, le_rfl, rfl⟩
  case fin.inf => exact .inr ⟨_, _, le_rfl, rfl⟩
  all_goals exact .inl rfl

/-- A product is the canonical NaN or a sign above a pattern up to infinity. -/
theorem Format.mul_cases (F : Format) (a b : Nat) :
    F.mul a b = F.qnan ∨ ∃ s m, m ≤ F.infBits ∧ F.mul a b = F.pack s m := by
  have hinf : ∀ (p : Prop) [Decidable p] (s : Bool), (if p then F.qnan else F.pack s F.infBits) = F.qnan ∨
      ∃ t m, m ≤ F.infBits ∧ (if p then F.qnan else F.pack s F.infBits) = F.pack t m := by
    intro p _ s
    split
    · exact .inl rfl
    · exact .inr ⟨_, _, le_rfl, rfl⟩
  unfold Format.mul
  cases F.datum a <;> cases F.datum b
  case fin.fin => exact .inr ⟨_, _, F.roundMag_le_infBits _ _, rfl⟩
  case inf.inf => exact .inr ⟨_, _, le_rfl, rfl⟩
  case inf.fin => exact hinf _ _
  case fin.inf => exact hinf _ _
  all_goals exact .inl rfl

/-! ### What a pattern stands for, at the bounds of the finite ones -/

theorem Format.datum_of_nan (h : F.infBits < F.body a) : F.datum a = .nan := by
  rw [F.datum_eq, if_neg (Nat.lt_asymm h), if_neg h.ne']

theorem Format.datum_of_inf (h : F.body a = F.infBits) : F.datum a = .inf (F.sign a) := by
  rw [F.datum_eq, if_neg h.not_lt, if_pos h]

/-- A pattern is its sign above its body. -/
theorem Format.pack_sign_body (h : a < 2 ^ (F.expBits + F.fracBits + 1)) : F.pack (F.sign a) (F.body a) = a := by
  have hdiv : a / 2 ^ (F.expBits + F.fracBits) < 2 := Nat.div_lt_of_lt_mul (by rwa [← Nat.pow_succ])
  have hsplit := Nat.div_add_mod a (2 ^ (F.expBits + F.fracBits))
  rw [Format.pack, Format.sign, Format.body, Nat.testBit_eq_decide_div_mod_eq, Nat.mod_eq_of_lt hdiv]
  rcases Nat.lt_or_ge (a / 2 ^ (F.expBits + F.fracBits)) 1 with h0 | h1
  · rw [Nat.lt_one_iff.mp h0] at hsplit ⊢
    simpa using hsplit
  · rw [Nat.le_antisymm (Nat.le_of_lt_succ hdiv) h1] at hsplit ⊢
    simpa using hsplit

/-! ### Infinities -/

/-- An infinity takes in every value but a NaN and the other infinity. -/
theorem Format.add_of_inf (ha : F.body a = F.infBits) (hb : F.body b ≤ F.infBits)
    (hsign : F.body b = F.infBits → F.sign b = F.sign a) : F.add a b = F.pack (F.sign a) F.infBits := by
  unfold Format.add
  rcases hb.lt_or_eq with hb | hb
  · rw [datum_of_inf ha, datum_of_finite hb]
  · rw [datum_of_inf ha, datum_of_inf hb]
    exact if_pos (hsign hb).symm

theorem Format.add_of_opposite_inf (ha : F.body a = F.infBits) (hb : F.body b = F.infBits)
    (hsign : F.sign a ≠ F.sign b) : F.add a b = F.qnan := by
  unfold Format.add
  rw [datum_of_inf ha, datum_of_inf hb]
  exact if_neg hsign

theorem Format.value_eq_zero_iff (F : Format) (m : Nat) : F.value m = 0 ↔ m = 0 := by
  have h := F.value_strictMono.injective.eq_iff (a := m) (b := 0)
  rwa [F.value_zero] at h

theorem Format.mul_of_inf (ha : F.body a = F.infBits) (hb : F.body b ≤ F.infBits) (hb0 : F.body b ≠ 0) :
    F.mul a b = F.pack (F.sign a ^^ F.sign b) F.infBits := by
  unfold Format.mul
  rcases hb.lt_or_eq with hb | hb
  · rw [datum_of_inf ha, datum_of_finite hb]
    exact if_neg (mt (F.value_eq_zero_iff _).mp hb0)
  · rw [datum_of_inf ha, datum_of_inf hb]

theorem Format.mul_of_inf_zero (hF : 0 < F.infBits) (ha : F.body a = F.infBits) (hb : F.body b = 0) :
    F.mul a b = F.qnan := by
  unfold Format.mul
  rw [datum_of_inf ha, datum_of_finite (hb.trans_lt hF)]
  exact if_pos (by rw [hb, F.value_zero])

/-! ### Exact results -/

/-- A magnitude that a finite pattern stands for rounds to that pattern. -/
theorem Format.roundMag_value (hF : 1 ≤ F.fracBits) (hd : 0 < den) (hm : m < F.infBits) :
    F.roundMag (F.value m * den) den = m := by
  have hdist := (nearest_dist_le hF hd (num := F.value m * den) m).1
  have hvalue : F.value m * den = F.value (F.nearest (F.value m * den) den) * den := by
    unfold Format.dist at hdist
    omega
  have hnearest := F.value_strictMono.injective (Nat.eq_of_mul_eq_mul_right hd hvalue)
  rw [roundMag_eq, ← hnearest, Nat.min_eq_left hm.le]

/-- Multiplying by 1.0 changes nothing: a finite product is exact. -/
theorem Format.mul_one_of_le (hF : 1 ≤ F.fracBits) (ha : F.body a ≤ F.infBits)
    (hone : F.datum b = .fin false (2 ^ F.unitExp)) : F.mul a b = F.pack (F.sign a) (F.body a) := by
  have hpos : 0 < 2 ^ F.unitExp := Nat.two_pow_pos _
  unfold Format.mul
  rcases ha.lt_or_eq with hfin | hinf
  · rw [datum_of_finite hfin, hone]
    simp only [Bool.xor_false, Format.round, roundMag_value hF hpos hfin]
  · rw [datum_of_inf hinf, hone]
    simp only [Bool.xor_false, if_neg hpos.ne', hinf]

/-- A signed magnitude that is not zero is negative as its sign says. -/
theorem decide_signed_neg {s : Bool} (h : signed s m ≠ 0) : decide (signed s m < 0) = s := by
  cases s with
  | false => simp [signed]
  | true =>
    simp only [signed, if_true] at h ⊢
    exact decide_eq_true (by omega)

/-- Adding -0.0 changes nothing: a finite sum is exact, and +0.0 keeps its sign. -/
theorem Format.add_neg_zero_of_le (hF : 1 ≤ F.fracBits) (ha : F.body a ≤ F.infBits)
    (hzero : F.datum b = .fin true 0) : F.add a b = F.pack (F.sign a) (F.body a) := by
  have hneg : signed true 0 = 0 := rfl
  unfold Format.add
  rcases ha.lt_or_eq with hfin | hinf
  · rw [datum_of_finite hfin, hzero]
    simp only [hneg, Int.add_zero, Bool.and_true, Format.round, signed_natAbs]
    split
    · next h =>
      rw [← Int.natAbs_eq_zero, signed_natAbs, F.value_eq_zero_iff] at h
      rw [h]
    · next h =>
      have hround := roundMag_value hF Nat.one_pos hfin
      rw [Nat.mul_one] at hround
      rw [hround, decide_signed_neg h]
  · rw [datum_of_inf hinf, hzero, hinf]

/-- A finite value and its negation cancel to +0.0. -/
theorem Format.add_neg_self (ha : F.Finite a) : F.add a (F.neg a) = 0 := by
  unfold Format.add
  rw [datum_of_finite ha, datum_of_finite (finite_neg ha), F.sign_neg, F.body_neg]
  cases F.sign a <;> simp [signed]

end

/-! ## Binary32 -/

/-- A sample from its sign and its body. -/
theorem Sample.ofNat_pack (a : Sample) :
    BitVec.ofNat 32 (binary32.pack (binary32.sign a.toNat) (binary32.body a.toNat)) = a := by
  rw [Format.pack_sign_body a.isLt, BitVec.ofNat_toNat, BitVec.setWidth_eq]

theorem Sample.ext_sign_body {a b : Sample} (hsign : binary32.sign a.toNat = binary32.sign b.toNat)
    (hbody : binary32.body a.toNat = binary32.body b.toNat) : a = b := by
  rw [← Sample.ofNat_pack a, hsign, hbody, Sample.ofNat_pack]

theorem f32Neg_toNat (a : Sample) : (f32Neg a).toNat = binary32.neg a.toNat :=
  Nat.mod_eq_of_lt (Nat.xor_lt_two_pow (n := 32) a.isLt (by decide))

theorem f32Add_comm (a b : Sample) : f32Add a b = f32Add b a :=
  congrArg (BitVec.ofNat 32) (binary32.add_comm ..)

theorem f32Mul_comm (a b : Sample) : f32Mul a b = f32Mul b a :=
  congrArg (BitVec.ofNat 32) (binary32.mul_comm ..)

/-- A result that is the canonical NaN or a sign above a pattern up to infinity is a NaN only as the canonical one. -/
theorem Sample.eq_qnan_of_isNaN {r : Nat}
    (hr : r = binary32.qnan ∨ ∃ s m, m ≤ binary32.infBits ∧ r = binary32.pack s m)
    (hnan : Sample.IsNaN (BitVec.ofNat 32 r)) : BitVec.ofNat 32 r = 0x7FC00000#32 := by
  obtain rfl | ⟨s, m, hm, rfl⟩ := hr
  · rfl
  · rw [Sample.IsNaN, pack_mod s (hm.trans_lt (by decide))] at hnan
    exact absurd hm hnan.not_ge

section
variable {a b : Sample}

theorem f32Add_of_isNaN (h : Sample.IsNaN a) (b : Sample) : f32Add a b = 0x7FC00000#32 := by
  rw [f32Add, Format.add_of_nan (Format.datum_of_nan (F := binary32) h)]
  rfl

theorem f32Mul_of_isNaN (h : Sample.IsNaN a) (b : Sample) : f32Mul a b = 0x7FC00000#32 := by
  rw [f32Mul, Format.mul_of_nan (Format.datum_of_nan (F := binary32) h)]
  rfl

theorem f32Mul_inf_zero (ha : a.toNat % 2 ^ 31 = 0x7F800000) (hb : b.toNat % 2 ^ 31 = 0) :
    f32Mul a b = 0x7FC00000#32 := by
  rw [f32Mul, Format.mul_of_inf_zero (F := binary32) (by decide) ha hb]
  rfl

theorem f32Add_inf_neg (ha : a.toNat % 2 ^ 31 = 0x7F800000) : f32Add a (f32Neg a) = 0x7FC00000#32 := by
  rw [f32Add, Format.add_of_opposite_inf (F := binary32) ha ((f32Neg_mod a).trans ha)
    (by simp [f32Neg_toNat, Format.sign_neg])]
  rfl

theorem f32Add_inf (ha : a.toNat % 2 ^ 31 = 0x7F800000) (hb : ¬ Sample.IsNaN b) (hne : b ≠ a ^^^ 0x80000000#32) :
    f32Add a b = a := by
  have hsign : binary32.body b.toNat = binary32.infBits → binary32.sign b.toNat = binary32.sign a.toNat := by
    intro hinf
    by_contra hs
    refine hne ((f32Neg_eq_xor a).symm ▸ Sample.ext_sign_body ?_ (hinf.trans ((f32Neg_mod a).trans ha).symm))
    rw [f32Neg_toNat, Format.sign_neg]
    exact Bool.eq_not_of_ne hs
  have hinf : binary32.body a.toNat = binary32.infBits := ha
  rw [f32Add, Format.add_of_inf hinf (Nat.le_of_not_lt hb) hsign, ← hinf, Sample.ofNat_pack]

/-- The infinity with the sign of a pattern. -/
theorem Sample.inf_of_sign (a : Sample) :
    BitVec.ofNat 32 (binary32.pack (binary32.sign a.toNat) binary32.infBits) =
      (a &&& 0x80000000#32) ||| 0x7F800000#32 := by
  have hsign : binary32.sign a.toNat = a.getLsbD 31 := rfl
  rw [hsign, show (0x80000000#32 : Sample) = BitVec.twoPow 32 31 from rfl, BitVec.and_twoPow]
  cases a.getLsbD 31 <;> rfl

theorem f32Mul_inf (ha : a.toNat % 2 ^ 31 = 0x7F800000) (hb : ¬ Sample.IsNaN b) (hb0 : b.toNat % 2 ^ 31 ≠ 0) :
    f32Mul a b = ((a ^^^ b) &&& 0x80000000#32) ||| 0x7F800000#32 := by
  have hsign : (binary32.sign a.toNat ^^ binary32.sign b.toNat) = binary32.sign (a ^^^ b).toNat := by
    rw [BitVec.toNat_xor, Format.sign, Format.sign, Format.sign, Nat.testBit_xor]
  rw [f32Mul, Format.mul_of_inf (F := binary32) ha (Nat.le_of_not_lt hb) hb0, hsign, Sample.inf_of_sign]

theorem f32Mul_one (ha : ¬ Sample.IsNaN a) : f32Mul a 0x3F800000#32 = a := by
  rw [f32Mul, Format.mul_one_of_le (F := binary32) (by decide) (Nat.le_of_not_lt ha) (by decide), Sample.ofNat_pack]

theorem f32Add_neg_zero (ha : ¬ Sample.IsNaN a) : f32Add a 0x80000000#32 = a := by
  rw [f32Add, Format.add_neg_zero_of_le (F := binary32) (by decide) (Nat.le_of_not_lt ha) (by decide),
    Sample.ofNat_pack]

end

/-- Settles O42: what the operands stand for decides each clause, and both operations are commutative. -/
theorem specialValuesOfArithmetic : Obligations.SpecialValuesOfArithmetic := by
  refine ⟨fun a b h => ?_, fun a b => Sample.eq_qnan_of_isNaN (binary32.add_cases ..),
    fun a b => Sample.eq_qnan_of_isNaN (binary32.mul_cases ..), fun a b ha hb => ?_, fun a => f32Add_inf_neg,
    fun a b ha hb => ⟨fun hne => ?_, fun hb0 => ?_⟩, fun a ha => ⟨f32Mul_one ha, f32Add_neg_zero ha⟩⟩
  · obtain h | h := h
    · exact ⟨f32Add_of_isNaN h b, f32Mul_of_isNaN h b⟩
    · exact ⟨f32Add_comm a b ▸ f32Add_of_isNaN h a, f32Mul_comm a b ▸ f32Mul_of_isNaN h a⟩
  · exact ⟨f32Mul_inf_zero ha hb, f32Mul_comm a b ▸ f32Mul_inf_zero ha hb⟩
  · exact ⟨f32Add_inf ha hb hne, f32Add_comm a b ▸ f32Add_inf ha hb hne⟩
  · exact ⟨f32Mul_inf ha hb hb0, f32Mul_comm a b ▸ f32Mul_inf ha hb hb0⟩

end Sys2Proof.Machine
end

section
/-! PROOFS. What a call computes from its factor, and where the two modes meet (spec/41_filter_kernel.md R151 to R153,
R171, spec/42_engine.md R190). -/

namespace Sys2Proof.Machine

theorem factorDen_eq : factorDen = 2 ^ 1074 := by rw [factorDen, unitExp_binary64]

section
variable {f : F64} (hf : F64.Proper f)
include hf

/-- The exact value of a factor from its fields (00_scope.md R12). -/
theorem factorNum_eq_fields : factorNum f =
    if f.toNat / 2 ^ 52 = 0 then f.toNat else 2 ^ (f.toNat / 2 ^ 52 - 1) * (2 ^ 52 + f.toNat % 2 ^ 52) := by
  rw [factorNum_eq hf, F64.units, Format.value]
  change (if f.toNat / 2 ^ 52 = 0 then f.toNat % 2 ^ 52 else _) = _
  split
  · next h => exact Nat.mod_eq_of_lt (Nat.lt_of_div_eq_zero (Nat.two_pow_pos 52) h)
  · rfl

/-- MODE by the bit patterns (41_filter_kernel.md R151). -/
theorem modeOf_eq : modeOf f = if 0x3FF0000000000000 ≤ f.toNat then .up else .ud := by
  have hkey : F64.key f = f.toNat := if_pos (hf.trans (by decide))
  have hnan : ¬ F64.IsNaN f := Nat.not_lt.mpr ((Nat.mod_le ..).trans hf.le)
  have hle : f64Le F64.one f = true ↔ 0x3FF0000000000000 ≤ f.toNat := by
    rw [f64Le_iff, hkey, show F64.key F64.one = (0x3FF0000000000000 : Nat) from rfl, Int.ofNat_le]
    exact ⟨fun h => h.2.2, fun h => ⟨by decide, hnan, h⟩⟩
  simp only [modeOf, hle]

end

/-- Settles O21: each value is the nearest integer of the exact factor that its definition rounds. -/
theorem callValues : Obligations.CallValues := by
  intro s last hpos hfin
  have hmode : (s.call last).mode = if 0x3FF0000000000000 ≤ s.opFactor.toNat then .up else .ud := modeOf_eq hfin
  have hnum : 0 < factorNum s.opFactor := by rwa [factorNum_eq hfin, F64.units_pos_iff]
  refine ⟨by simp [hmode], fun hup => ?_, fun hud => ?_, rneDiv_nearestEven hnum,
    ⟨_, rneDiv_nearestEven factorDen_pos, rfl⟩, factorDen_eq, factorNum_eq_fields hfin⟩
  · change gainOf s.opFactor = _
    rw [gainOf, show modeOf s.opFactor = .up from hup]
    rfl
  · change gainOf s.opFactor = _
    rw [gainOf, show modeOf s.opFactor = .ud from hud]

/-! ## The clamp of DH -/

/-- An integer that a quotient rounded to nearest reaches lies above the exact quotient by at most a half. -/
theorem le_of_le_rneDiv {n d c : Nat} (hd : 0 < d) (h : c ≤ rneDiv n d) : 2 * c * d ≤ 2 * n + d :=
  (Nat.mul_le_mul_right d (Nat.mul_le_mul_left 2 h)).trans (rneDiv_nearestEven hd).2.1

/-- A quotient n/d that is within half a part in 2^24 * m of 1 from below is within half a part in 2^24. -/
theorem le_of_scaled_le {m n d : Nat} (hm : 0 < m) (h : 2 ^ 25 * m * d ≤ 2 ^ 25 * m * n + d) :
    (2 ^ 25 - 1) * d ≤ 2 ^ 25 * n := by
  have hdm : d ≤ m * d := Nat.le_mul_of_pos_left d hm
  refine Nat.le_of_mul_le_mul_left (c := m) ?_ hm
  have hd : m * ((2 ^ 25 - 1) * d) + m * d = 2 ^ 25 * m * d := by ring
  have hn : m * (2 ^ 25 * n) = 2 ^ 25 * m * n := by ring
  omega

/-- A clamped table step is that of a factor not below the midpoint that precedes 1.0 in binary32. -/
theorem factorDen_le_of_clamped {f : F64} {k : Nat} (h : tableStep (2 ^ k) f = 2 ^ 32 * 2 ^ k) :
    (2 ^ 25 - 1) * factorDen ≤ 2 ^ 25 * factorNum f := by
  have hreach : 2 ^ 32 * 2 ^ k ≤ rneDiv (2 ^ 32 * 2 ^ k * factorNum f) factorDen :=
    h.symm.trans_le (Nat.min_le_right ..)
  have hclose := le_of_le_rneDiv factorDen_pos hreach
  have hscale : 2 * (2 ^ 32 * 2 ^ k) = 2 ^ 25 * (2 ^ 8 * 2 ^ k) := by ring
  rw [← Nat.mul_assoc 2 (2 ^ 32 * 2 ^ k), hscale] at hclose
  exact le_of_scaled_le (Nat.mul_pos (by decide) (Nat.two_pow_pos k)) hclose

/-- A magnitude from the midpoint below 1.0 to 1.0 rounds to the binary32 pattern of 1.0. -/
theorem roundMag_eq_one {num den : Nat} (hd : 0 < den) (hlow : (2 ^ 25 - 1) * den ≤ 2 ^ 25 * num)
    (hhigh : num ≤ den) :
    binary32.roundMag (2 ^ 149 * num) den = 0x3F800000 := by
  have hle : binary32.roundMag (2 ^ 149 * num) den ≤ 2 ^ 23 * (126 + 1) :=
    roundMag_le hd (by rw [Nat.mul_comm]; exact Nat.mul_le_mul_right _ hhigh)
  have hmid : binary32.value 0x3F7FFFFF * den + binary32.value (0x3F7FFFFF + 1) * den ≤ 2 * (2 ^ 149 * num) := by
    have hsum : binary32.value 0x3F7FFFFF + binary32.value (0x3F7FFFFF + 1) = 2 ^ 125 * (2 ^ 25 - 1) := by decide
    rw [← Nat.add_mul, hsum]
    calc 2 ^ 125 * (2 ^ 25 - 1) * den = 2 ^ 125 * ((2 ^ 25 - 1) * den) := Nat.mul_assoc ..
      _ ≤ 2 ^ 125 * (2 ^ 25 * num) := Nat.mul_le_mul_left _ hlow
      _ = 2 * (2 ^ 149 * num) := by ring
  have hlt := (Format.lt_nearest_iff_of_odd (by decide) hd (by decide)).mpr hmid
  rw [Format.roundMag_eq, show binary32.infBits = 0x7F800000 from rfl] at *
  omega

/-- A factor below 1.0 is a proper fraction. -/
theorem factorNum_le_factorDen {f : F64} (h : f.toNat < 0x3FF0000000000000) : factorNum f ≤ factorDen := by
  have hone : F64.units F64.one = factorDen := by
    rw [f64One_eq, (f64OfNat_exact (n := 1) (by decide)).2, Nat.mul_one]
  rw [factorNum_eq (h.trans (by decide)), ← hone, F64.units_le_units_iff]
  exact h.le

/-- A factor without a sign converts by rounding its exact value. -/
theorem f32OfF64_toNat_of_proper {f : F64} (hf : F64.Proper f) :
    (f32OfF64 f).toNat = binary32.roundMag (2 ^ 149 * factorNum f) factorDen := by
  have hlt : f.toNat < 2 ^ (binary64.expBits + binary64.fracBits) := hf.trans binary64.infBits_lt
  have hfinite : binary64.Finite f.toNat := (Format.body_of_lt hlt).trans_lt hf
  rw [f32OfF64_toNat hfinite, Format.sign_of_lt hlt, Format.pack_false, Format.exact_natAbs, Format.body_of_lt hlt,
    ← factorDen_eq, factorNum_eq hf, F64.units]

/-- Settles O39: the positions and fractions are the same, and a factor that is clamped lies above the midpoint that
precedes 1.0 in binary32. -/
theorem modesAgreeAtTheClamp : Obligations.ModesAgreeAtTheClamp := by
  refine ⟨filterUd_eq_filterUp, fun f k _ _ hlt hclamp => ?_⟩
  have hfin : F64.Proper f := hlt.trans (by decide)
  have hmode : modeOf f = .ud := by rw [modeOf_eq hfin, if_neg (Nat.not_le.mpr hlt)]
  refine ⟨hmode, BitVec.eq_of_toNat_eq ?_⟩
  rw [gainOf, hmode]
  change (f32OfF64 f).toNat = 0x3F800000
  rw [f32OfF64_toNat_of_proper hfin,
    roundMag_eq_one factorDen_pos (factorDen_le_of_clamped hclamp) (factorNum_le_factorDen hlt)]

end Sys2Proof.Machine
end

section
/-! PROOFS. The sums of the filter kernel (spec/41_filter_kernel.md R154 to R169, spec/42_engine.md R216, R222). -/

namespace Sys2Proof.Machine

/-! ## A wing as an ordered sum over its taps -/

section
variable {c : Call} {h : Nat}

theorem tapWeight_of_no_interp (hoff : c.interp = false) (a32 : Sample) :
    tapWeight c h a32 = c.params.imp c.quality h := by
  unfold tapWeight
  cases c.params.imp c.quality h <;> simp [hoff]

theorem tapWeight_of_interp {here slope : Sample} (hon : c.interp = true)
    (himp : c.params.imp c.quality h = some here) (himpd : c.params.impd c.quality h = some slope) (a32 : Sample) :
    tapWeight c h a32 = some (f32Add here (f32Mul slope a32)) := by
  simp [tapWeight, himp, himpd, hon]

end

/-- A loop over `n` taps that all have a product adds them in order. -/
theorem tapLoop_eq_foldl {more : Nat → Bool} {tap : Nat → Option Sample} {product : Nat → Sample} {n : Nat} :
    ∀ {j : Nat} {v : Sample}, more (j + n) = false →
    (∀ k, j ≤ k → k < j + n → more k = true ∧ tap k = some (product k)) →
    tapLoop more tap n j v = some ((List.range' j n).foldl (fun v k => f32Add v (product k)) v) := by
  induction n with
  | zero =>
    intro j v hend _
    simp [tapLoop, show more j = false from hend]
  | succ n ih =>
    intro j v hend htap
    obtain ⟨hmore, hj⟩ := htap j le_rfl (by omega)
    rw [tapLoop, if_pos hmore, hj, Option.bind_some, List.range'_succ, List.foldl_cons]
    exact ih (by rwa [show j + 1 + n = j + (n + 1) by omega]) fun k hk hk' => htap k (by omega) (by omega)

theorem tapProduct_eq_some {c : Call} {x : Memory} {wing : Wing} {i : Int} {j h : Nat} {a32 p : Sample} :
    tapProduct c x wing i j h a32 = some p ↔
      ∃ t v, tapWeight c h a32 = some t ∧ xRead c x (i + wing.dir * j) = some v ∧ f32Mul t v = p := by
  unfold tapProduct
  cases tapWeight c h a32 <;> cases xRead c x (i + wing.dir * j) <;> simp

section
variable {c : Call} {x : Memory} {wing : Wing} {i : Int} {taps : Nat} {weight input : Nat → Sample}

/-- The loop over a wing's taps is the ordered sum of weight ⊗ input, wherever the taps stand in the table: their
words are different ones in use, so there are no more of them than the loop's bound. -/
theorem tapLoop_limit_eq_foldl (hread : ∀ j < taps, xRead c x (i + wing.dir * j) = some (input j))
    {more : Nat → Bool} {pos : Nat → Nat} {a32 : Nat → Sample} (hmore : ∀ j, j < taps ↔ more j = true)
    (hweight : ∀ j < taps, tapWeight c (pos j) (a32 j) = some (weight j)) :
    tapLoop more (fun j => tapProduct c x wing i j (pos j) (a32 j)) c.limit 0 Sample.zero =
      some ((List.range taps).foldl (fun v j => f32Add v (f32Mul (weight j) (input j))) Sample.zero) := by
  obtain ⟨k, hk, hnone⟩ := exists_xRead_eq_none c x wing i
  have htaps : taps ≤ k := by
    by_contra hlt
    exact absurd (hread k (by omega)) (by simp [hnone])
  have hend : more taps = false := by rw [← Bool.not_eq_true, ← hmore]; omega
  rw [tapLoop_bound (htaps.trans hk) ⟨taps, Nat.zero_le _, by omega, .inl hend⟩, List.range_eq_range']
  refine tapLoop_eq_foldl (product := fun j => f32Mul (weight j) (input j)) (by rwa [Nat.zero_add]) fun j _ hj => ?_
  rw [Nat.zero_add] at hj
  exact ⟨(hmore j).mp hj, tapProduct_eq_some.mpr ⟨_, _, hweight j hj, hread j hj, rfl⟩⟩

/-- Only a right wing at phase 0 starts one step further on (41_filter_kernel.md R162). -/
theorem no_phase_skip {ph : Nat} (hph : 0 < ph ∨ wing = .left) : ¬ (wing = .right ∧ ph = 0) := by
  rintro ⟨rfl, rfl⟩
  simp at hph

/-- FILTER_UP as a loop over taps, without the skip of 41_filter_kernel.md R162. -/
theorem filterUp_eq_tapLoop {ph : Nat} (hph : 0 < ph ∨ wing = .left) : filterUp c x wing i ph =
    tapLoop (fun j => 2 ^ c.params.k * ph / 2 ^ 32 + j * c.params.npc < wing.tapEnd c.nwing)
      (fun j => tapProduct c x wing i j (2 ^ c.params.k * ph / 2 ^ 32 + j * c.params.npc)
        (f32OfRatio (2 ^ c.params.k * ph % 2 ^ 32) (2 ^ 32))) c.limit 0 Sample.zero := by
  rw [← filterUpFrom_eq_tapLoop, filterUp, if_neg (no_phase_skip hph), Nat.zero_mul]

end

/-- Settles O37: both filters are the loop over taps, which adds the products in order. -/
theorem wingIsTheOrderedTapSum : Obligations.WingIsTheOrderedTapSum := by
  refine ⟨fun c h a32 here himp =>
      ⟨fun hoff => (tapWeight_of_no_interp hoff a32).trans himp,
        fun _ hon himpd => tapWeight_of_interp hon himp himpd a32⟩,
    fun c x time left right hup hud => ?_,
    fun c x wing i ph dh taps weight input hph hread => ⟨fun hmore hweight => ?_, fun hmore hweight => ?_⟩⟩
  · have hwings : wingSum c x .left (time / 2 ^ 32 : Nat) (time % 2 ^ 32) = some left ∧
        wingSum c x .right ((time / 2 ^ 32 : Nat) + 1) (2 ^ 32 - time % 2 ^ 32) = some right := by
      unfold wingSum
      cases hmode : c.mode with
      | up => exact hup hmode
      | ud => exact hud hmode
    simp only [sample, hwings]
  · rw [filterUp_eq_tapLoop hph]
    exact tapLoop_limit_eq_foldl hread (fun j => by simp [hmore]) hweight
  · rw [filterUd_eq_tapLoop c x wing i ph dh (ph * dh / 2 ^ 32) (by rw [if_neg (no_phase_skip hph), Nat.add_zero])]
    exact tapLoop_limit_eq_foldl hread (fun j => by simp [hmore]) hweight

/-! ## Tap reach -/

/-- Settles O38: XOFF table steps pass the wing in both modes. -/
theorem sampleReachesOnlyWrittenWords : Obligations.SampleReachesOnlyWrittenWords := by
  intro c x time hnwing hrom hup hud
  refine sample_isSome hnwing hrom ?_
  unfold Call.step
  cases hmode : c.mode with
  | up =>
    calc 2 ^ 32 * c.nwing ≤ 2 ^ 32 * (c.xoff * c.params.npc) := Nat.mul_le_mul_left _ (hup hmode)
      _ = c.xoff * (2 ^ 32 * c.params.npc) := Nat.mul_left_comm ..
  | ud => exact hud hmode

/-! ## Silence -/

/-- A sample is +0.0 or -0.0. -/
abbrev Sample.IsZero (a : Sample) : Prop := a = 0x00000000#32 ∨ a = 0x80000000#32

/-- A sample is finite (00_scope.md R12). -/
abbrev Sample.Finite (a : Sample) : Prop := a.toNat % 2 ^ 31 < 0x7F800000

theorem Sample.datum_of_isZero {a : Sample} (h : Sample.IsZero a) : ∃ s, binary32.datum a.toNat = .fin s 0 := by
  obtain rfl | rfl := h
  · exact ⟨false, by decide⟩
  · exact ⟨true, by decide⟩

theorem f32Add_neg_self {a : Sample} (h : Sample.Finite a) : f32Add a (f32Neg a) = 0x00000000#32 := by
  rw [f32Add, f32Neg_toNat, Format.add_neg_self (F := binary32) h]

/-- +0.0 stays +0.0 when a zero of either sign is added. -/
theorem f32Add_zero_of_isZero {a : Sample} (h : Sample.IsZero a) : f32Add 0x00000000#32 a = 0x00000000#32 := by
  obtain rfl | rfl := h <;> decide

/-- A finite value times a zero is a zero with the product's sign. -/
theorem Format.mul_zero_of_finite {F : Format} {a b : Nat} {s : Bool} (hF : 1 ≤ F.fracBits) (ha : F.Finite a)
    (hb : F.datum b = .fin s 0) : F.mul a b = F.pack (F.sign a ^^ s) 0 := by
  have hround := roundMag_value (m := 0) hF (Nat.two_pow_pos F.unitExp) ((Nat.zero_le _).trans_lt ha)
  rw [F.value_zero, Nat.zero_mul] at hround
  unfold Format.mul
  rw [datum_of_finite ha, hb]
  simp only [Format.round, Nat.mul_zero, hround]

theorem f32Mul_isZero {t v : Sample} (ht : Sample.Finite t) (hv : Sample.IsZero v) : Sample.IsZero (f32Mul t v) := by
  obtain ⟨s, hs⟩ := Sample.datum_of_isZero hv
  rw [f32Mul, Format.mul_zero_of_finite (F := binary32) (by decide) ht hs]
  cases binary32.sign t.toNat ^^ s
  · exact .inl rfl
  · exact .inr rfl

/-- +0.0 times a finite gain that is not negative. -/
theorem f32Mul_zero_gain {g : Sample} (h : g.toNat < 0x7F800000) : f32Mul 0x00000000#32 g = 0x00000000#32 := by
  have hbound : g.toNat < 2 ^ (binary32.expBits + binary32.fracBits) := h.trans (by decide)
  rw [f32Mul_comm, f32Mul, Format.mul_zero_of_finite (F := binary32) (s := false) (by decide)
    ((Format.body_of_lt hbound).trans_lt h) (by decide), Format.sign_of_lt hbound]
  rfl

/-- A loop whose products leave the accumulator as it is ends with it. -/
theorem tapLoop_absorbs {more : Nat → Bool} {tap : Nat → Option Sample} {v w : Sample}
    (h : ∀ j p, tap j = some p → f32Add v p = v) :
    ∀ {n j : Nat}, tapLoop more tap n j v = some w → w = v := by
  intro n
  induction n with
  | zero =>
    intro j hw
    simp only [tapLoop, Option.ite_none_left_eq_some, Option.some.injEq] at hw
    exact hw.2.symm
  | succ n ih =>
    intro j hw
    rw [tapLoop] at hw
    split at hw
    · obtain ⟨p, hp, hw⟩ := Option.bind_eq_some_iff.mp hw
      rw [h j p hp] at hw
      exact ih hw
    · exact (Option.some.inj hw).symm

section
variable {c : Call} {x : Memory} (hx : ∀ i a, x.read i = some a → Sample.IsZero a)
  (hweight : ∀ h r t, r < 2 ^ 32 → tapWeight c h (f32OfRatio r (2 ^ 32)) = some t → Sample.Finite t)
include hx hweight

/-- A wing over zeros sums to +0.0: every product is a zero, and the accumulator starts at +0.0. -/
theorem wingSum_of_zeros {wing : Wing} {i : Int} {ph : Nat} {v : Sample} (h : wingSum c x wing i ph = some v) :
    v = 0x00000000#32 := by
  rw [wingSum_eq_tapLoop] at h
  refine tapLoop_absorbs (fun j p hp => ?_) h
  obtain ⟨t, a, ht, ha, rfl⟩ := tapProduct_eq_some.mp hp
  obtain ⟨-, -, hread⟩ := xRead_eq_some.mp ha
  exact f32Add_zero_of_isZero (f32Mul_isZero (hweight _ _ t (Nat.mod_lt _ (Nat.two_pow_pos 32)) ht) (hx _ a hread))

/-- SAMPLE over zeros is +0.0. -/
theorem sample_of_zeros {time : Nat} {v : Sample} (hgain : c.lpscl.toNat < 0x7F800000)
    (h : sample c x time = some v) : v = 0x00000000#32 := by
  unfold sample at h
  dsimp only at h
  split at h
  · next l r hl hr =>
    rw [wingSum_of_zeros hx hweight hl, wingSum_of_zeros hx hweight hr, f32Add_zero_of_isZero (.inl rfl),
      f32Mul_zero_gain hgain] at h
    exact (Option.some.inj h).symm
  · simp at h

end

/-- Entries of at most 2^125 keep every weight finite, with interpolation; without it finite entries do. -/
theorem tapWeight_finite_of_entries {c : Call} (hrom : ∀ h t, c.params.imp c.quality h = some t →
      Sample.Finite t ∧ (c.interp = true → t.toNat % 2 ^ 31 ≤ 0x7E000000))
    {h r : Nat} {t : Sample} (hr : r < 2 ^ 32) (ht : tapWeight c h (f32OfRatio r (2 ^ 32)) = some t) :
    Sample.Finite t := by
  cases hinterp : c.interp with
  | false =>
    rw [tapWeight_of_no_interp hinterp] at ht
    exact (hrom h t ht).1
  | true =>
    have himp : ∀ h t, c.params.imp c.quality h = some t → t.toNat % 2 ^ 31 ≤ 2 ^ 23 * (251 + 1) :=
      fun h t e => (hrom h t e).2 hinterp
    exact tapWeight_finite (p := 252) (by decide) (fun h t e => (himp h t e).trans (by decide))
      (fun h d e => impd_le (by decide) himp e) hr ht

/-- Settles O40: the products over silence are zeros, which +0.0 absorbs. -/
theorem silenceGivesPositiveZero : Obligations.SilenceGivesPositiveZero :=
  ⟨f32Add_zero_of_isZero (.inr rfl), fun _ => f32Add_neg_self,
    fun _ _ _ _ hx hweight hgain => sample_of_zeros hx hweight hgain,
    fun _ _ _ _ hx hrom hgain => sample_of_zeros hx (fun _ _ _ hr => tapWeight_finite_of_entries hrom hr) hgain⟩

end Sys2Proof.Machine
end

section
/-! PROOFS. The parts of PROCESS, one by one (spec/42_engine.md R187, R192 to R200): when DRAIN waits, what the padding
of the final batch writes, and when a pass overflows Y. -/

namespace Sys2Proof.Machine

section
variable {c : Call} {w : Work}

/-! ## DRAIN -/

/-- A loop over a range runs its beginning and then the rest. -/
theorem forRange_add (body : Nat → Work → Run) (first m n : Nat) (w : Work) :
    forRange body first (m + n) w = (forRange body first m w).andThen (forRange body (first + m) n) := by
  induction m generalizing first w with
  | zero => simp
  | succ m ih =>
    rw [Nat.add_right_comm, forRange_succ, forRange_succ, Run.andThen_assoc, Nat.add_comm m 1, ← Nat.add_assoc]
    exact congrArg _ (funext (ih (first + 1)))

/-- DRAIN waits when the port accepts fewer samples than it would deliver; those accepted are the transfers made
(42_engine.md R187, 70_reset_and_hazards.md R276). -/
theorem drain_stalls {ready : Nat} (hyp : w.yp ≤ c.ysize) (hwritten : w.y.Written w.yp) (hready : c.ready = some ready)
    (hle : w.written ≤ ready) (hlt : ready < w.written + min (c.room - w.written) w.yp) :
    ∃ out : List Sample, out.map some = (List.range (ready - w.written)).map w.y.read ∧
      drain c w = .stall { w with moves := w.moves ++ out.map .output } := by
  obtain ⟨out, hout, hrun⟩ := forRange_outWrite_completes (c := c) (w := w) (count := ready - w.written)
    (hwritten.mono (by omega)) (by omega) fun r hr => by
      obtain rfl : ready = r := Option.some.inj (hready.symm.trans hr)
      omega
  have hlen : out.length = ready - w.written := by simpa using congrArg List.length hout
  refine ⟨out, hout, ?_⟩
  obtain ⟨v, hv⟩ := Option.isSome_iff_exists.mp (hwritten (ready - w.written) (by omega))
  have hstall : outWrite c (ready - w.written) { w with moves := w.moves ++ out.map .output } =
      .stall { w with moves := w.moves ++ out.map .output } := by
    refine outWrite_eq_stall.mpr ⟨⟨v, yRead_eq_some.mpr ⟨by omega, hv⟩⟩, ?_, rfl⟩
    rw [← Bool.not_eq_true, Call.accepts_eq_true]
    intro h
    have := h ready hready
    simp only [Work.written_eq, outputsOf_append, outputsOf_map_output, List.length_append] at this hlen hle
    omega
  obtain ⟨rest, hrest⟩ : ∃ rest, min (c.room - w.written) w.yp = ready - w.written + (rest + 1) :=
    ⟨min (c.room - w.written) w.yp - (ready - w.written) - 1, by omega⟩
  rw [drain, hrest]
  simp only [forRange_add, hrun, Run.done_andThen, Nat.zero_add, forRange_succ, hstall, Run.stall_andThen]

/-! ## PULL and the padding -/

theorem finalBatch_eq_true : finalBatch c w = true ↔ c.last = true ∧ w.used = c.n := by
  simp [finalBatch]

/-- The final batch writes XOFF zeros above XREAD (42_engine.md R194). -/
theorem pullAndPad_of_final {w1 : Work} (hpull : pull c w = .done w1) (hfinal : finalBatch c w1 = true)
    (hxread : w1.xread ≤ c.xsize) : ∃ x, Memory.Filled w1.x w1.xread c.xoff (fun _ => some Sample.zero) x ∧
      pullAndPad c w = .done { w1 with x, flushed := true } := by
  obtain ⟨x, hx, hrun⟩ := flush_completes hxread
  exact ⟨x, hx, by rw [pullAndPad, hpull, Run.done_andThen, if_pos hfinal, hrun]⟩

/-- A batch that is not the final one is not padded. -/
theorem pullAndPad_of_not_final {w1 : Work} (hpull : pull c w = .done w1) (hfinal : ¬ finalBatch c w1 = true) :
    pullAndPad c w = .done w1 := by
  rw [pullAndPad, hpull, Run.done_andThen, if_neg hfinal]

/-! ## PASS and RETIRE -/

/-- A pass that has more samples to make than Y has room for faults at the write past YSIZE (42_engine.md R196,
20_memory.md R85). -/
theorem passFrom_overflows {bound : Nat} : ∀ {slots count : Nat} {w : Work}, w.nout ≤ c.ysize →
    w.nout + slots = c.ysize + 1 → c.ysize < w.nout + count →
    (∀ k, k < count ↔ w.time + k * c.dt < bound) →
    (∀ k < count, (sample c w.x (w.time + k * c.dt)).isSome = true) →
    ∃ w', passFrom c bound slots w = .fault .yovf w' ∧ w'.moves = w.moves
  | 0, count, w, hnout, hslots, _, _, _ => by omega
  | slots + 1, 0, w, hnout, _, hover, _, _ => by omega
  | slots + 1, count + 1, w, hnout, hslots, hover, hcount, hsample => by
    have hlt : w.time < bound := by simpa using hcount 0
    obtain ⟨v, hv⟩ := Option.isSome_iff_exists.mp (hsample 0 (by omega))
    rw [Nat.zero_mul, Nat.add_zero] at hv
    rw [passFrom, if_pos hlt, passOne, hv]
    by_cases hroom : w.nout < c.ysize
    · have hnext : ∀ k, w.time + (k + 1) * c.dt = w.time + c.dt + k * c.dt := fun k => by ring
      simp only [yWrite, if_pos hroom, Run.done_andThen]
      exact passFrom_overflows (w := { w with y := w.y.write w.nout v, nout := w.nout + 1, time := w.time + c.dt })
        (count := count) hroom (by dsimp only; omega) (by dsimp only; omega)
        (fun k => by rw [← hnext, ← hcount]; omega) fun k hk => by rw [← hnext]; exact hsample (k + 1) (by omega)
    · exact ⟨w, by simp only [yWrite, if_neg hroom, Run.fault_andThen], rfl⟩

end

/-! ## What each part does -/

/-- Settles O30: DRAIN is done when the port accepts what it delivers, and waits at the first sample refused. -/
theorem drainDeliversAndShifts : Obligations.DrainDeliversAndShifts := by
  intro c w hyp hwritten
  refine ⟨fun ready hready hle hlt => drain_stalls hyp hwritten hready hle hlt, fun hready => ?_⟩
  obtain ⟨y, out, hlen, hout, hy, hrun⟩ := drain_completes hyp hwritten hready
  rw [← hlen]
  exact ⟨_, out, hrun, rfl, hout, rfl, fun j hj => by simpa only [Nat.zero_add] using hy.inside hj,
    fun j hj => hy.outside (by simpa using hj), rfl, rfl, rfl, rfl, rfl, rfl⟩

/-- Settles O31: a presented offer fills the words of X from XREAD on. -/
theorem pullTakesTheNextSamples : Obligations.PullTakesTheNextSamples := by
  intro c w hoffer
  obtain ⟨x, count, hcount, hx, hrun⟩ := pull_completes (w := w) hoffer
  rw [← hcount]
  exact ⟨_, hrun, by simp [Work.used_eq], rfl, rfl, fun k hk => hx.inside hk, fun j hj => hx.outside hj, rfl, rfl, rfl,
    rfl, rfl, rfl⟩

/-- Settles O32: the batch is final when LAST is set and PULL took the whole offer. -/
theorem finalBatchPadsWithZeros : Obligations.FinalBatchPadsWithZeros := by
  intro c w w1 hpull hxread
  refine ⟨fun hlast hused => ?_, fun hmore => ?_⟩
  · have hfinal : finalBatch c w1 = true := finalBatch_eq_true.mpr ⟨hlast, hused⟩
    obtain ⟨x, hx, hrun⟩ := pullAndPad_of_final hpull hfinal hxread
    exact ⟨_, hrun, rfl, rfl, fun k hk => hx.inside hk, fun j hj => hx.outside hj, rfl, if_pos hfinal⟩
  · have hfinal : ¬ finalBatch c w1 = true := by
      rw [finalBatch_eq_true]
      rintro ⟨hlast, hused⟩
      exact hmore.elim (by simp [hlast]) fun h => h hused
    exact ⟨pullAndPad_of_not_final hpull hfinal, if_neg hfinal⟩

/-- Settles O33: a pass is done when Y has room for its samples, and overflows otherwise. -/
theorem passMakesEverySampleBelowTheBound : Obligations.PassMakesEverySampleBelowTheBound := by
  intro c w nx count _ hcount hsample
  refine ⟨fun hroom => ?_, fun hover => ?_⟩
  · obtain ⟨y, hy, hrun⟩ := pass_completes hcount hsample hroom
    exact ⟨_, hrun, rfl, rfl, fun k hk => by simpa only [Nat.zero_add] using hy.inside hk,
      fun j hj => hy.outside (.inr (by simpa using hj)), rfl⟩
  · exact passFrom_overflows (w := { w with nout := 0 }) (Nat.zero_le _) (Nat.zero_add _)
      (by simpa using hover) hcount hsample

/-- Settles O34: TIME gives up its whole samples above XOFF. -/
theorem retireRebasesTheCursor : Obligations.RetireRebasesTheCursor := by
  intro c w nx h
  obtain ⟨time, creep, hsum, hge, hlt, hcursor⟩ := retireCursor_rebases h
  rw [hcursor]
  exact ⟨creep, hsum, rfl, hge, hlt, rfl⟩

/-- Settles O35: the words moved down are read before they are written over. -/
theorem retireShiftsX : Obligations.RetireShiftsX := by
  intro c w _ hshift hlimit hwritten
  obtain ⟨x, hx, hrun⟩ := retireShift_completes hwritten hlimit hshift
  exact ⟨_, hrun, Nat.sub_add_cancel hshift, rfl, rfl, fun k hk => by simpa only [Nat.zero_add] using hx.inside hk,
    fun j hj => hx.outside (.inr (by simpa using hj)), rfl⟩

end Sys2Proof.Machine
end

section
/-! PROOFS. That PROCESS does not fault (spec/42_engine.md R216 to R219): with ports that are ready every part of it is
done, and a port that is not ready can only make it wait. -/

namespace Sys2Proof.Machine

/-! ## With ready ports every part is done -/

section
variable {c : Call} {stream : List Sample} {pos : Nat} {w : Work}

/-- DRAIN is done when no port makes the call wait. -/
theorem drain_done_of_ready (hc : c.Streams stream pos) (hroom : w.written ≤ c.room) (hyp : w.yp ≤ c.ysize)
    (hwritten : w.y.Written w.yp) : ∃ w', drain c w = .done w' := by
  obtain ⟨y, out, -, -, -, hrun⟩ := drain_completes hyp hwritten fun r hr => by
    have := hc.ready r hr
    omega
  exact ⟨_, hrun⟩

/-- The words of X that the last sample of a pass reaches: those below XREAD, and the padding of the final batch. -/
def Work.Padded (c : Call) (w : Work) : Prop := w.x.Written (w.xread + if w.flushed then c.xoff else 0)

/-- PULL and the padding of an offer that is presented are done, and leave written words for a pass (42_engine.md
R192, R194). -/
theorem pullAndPad_done_of_ready (hc : c.Streams stream pos) (hfits : Work.Fits c w) (hunflushed : w.flushed = false) :
    ∃ w', pullAndPad c w = .done w' ∧ w'.time = w.time ∧ w'.xp = w.xp ∧ w'.xread ≤ c.xsize ∧
      w'.x.Written w'.xread ∧ w'.Padded c ∧ w'.flushed = finalBatch c w' := by
  obtain ⟨-, hhigh⟩ := hfits.unflushed hunflushed
  have hxsize := hc.xsize
  obtain ⟨x1, count, hcount, -, hpull⟩ := pull_completes (c := c) (w := w) hc.presented
  obtain ⟨x1', count', -, hwritten, hcount', heq⟩ := pull_done hpull
  obtain ⟨rfl, rfl⟩ : x1 = x1' ∧ count = count' := ⟨congrArg Work.x heq, hcount.trans hcount'.symm⟩
  have hwritten := hwritten hfits.x_written
  by_cases hfinal : finalBatch c { w with
      x := x1, xread := w.xread + count, moves := w.moves ++ List.replicate count .input } = true
  · obtain ⟨x, hx, hrun⟩ := pullAndPad_of_final hpull hfinal (by dsimp only; omega)
    have hpadded : x.Written (w.xread + count + c.xoff) := fun j hj => by
      by_cases hold : j < w.xread + count
      · rw [hx.outside (.inl hold)]
        exact hwritten j hold
      · rw [hx, if_pos (by dsimp only; omega)]
        rfl
    exact ⟨_, hrun, rfl, rfl, by dsimp only; omega, hpadded.mono (Nat.le_add_right ..), hpadded, hfinal.symm⟩
  · refine ⟨_, pullAndPad_of_not_final hpull hfinal, rfl, rfl, by dsimp only; omega, hwritten, ?_, ?_⟩
    · simpa [Work.Padded, hunflushed] using hwritten
    · rw [Bool.eq_false_of_not_eq_true hfinal]
      exact hunflushed

/-- A pass whose words are written has a value for each sample and room for it (42_engine.md R216, R218). -/
theorem pass_done_of_written {nx : Nat} (hc : c.Streams stream pos) (hge : 2 ^ 32 * c.xoff ≤ w.time)
    (hxsize : nx + c.xoff ≤ c.xsize) (hwritten : w.x.Written (nx + 2 * c.xoff)) : ∃ w', pass c nx w = .done w' := by
  have hsize := hc.xsize
  have hdt_ge := hc.dt_ge
  have hlimit : c.limit = c.xsize + c.xoff := rfl
  have hdt : 0 < c.dt := Nat.pos_of_mul_pos_left (show 0 < c.ysize * c.dt by omega)
  obtain ⟨count, hcount⟩ := exists_count_below w.time (2 ^ 32 * (c.xoff + nx)) hdt
  have hbelow : ∀ k < count, w.time + k * c.dt < 2 ^ 32 * (c.xoff + nx) := fun k hk => (hcount k).mp hk
  have hroom : count ≤ c.ysize := by
    by_contra hmore
    have := hbelow c.ysize (by omega)
    omega
  obtain ⟨y, -, hrun⟩ := pass_completes hcount (fun k hk => by
    have := hbelow k hk
    exact sample_isSome hc.nwing hc.rom hc.reach (by omega) (by omega) fun j _ hj => hwritten j (by omega)) hroom
  exact ⟨_, hrun⟩

/-- A pass, the retiring and the drain after it are done (42_engine.md R196 to R201, R217). -/
theorem passAndDrain_done_of_written {nx : Nat} (hc : c.Streams stream pos) (hroom : w.written ≤ c.room)
    (hge : 2 ^ 32 * c.xoff ≤ w.time) (hlt : w.time < 2 ^ 32 * (c.xoff + 1)) (hxp : w.xp = c.xoff) (hnx : 0 < nx)
    (hxread : w.xread ≤ c.xsize) (hwritten : w.x.Written w.xread) (hpadded : w.Padded c)
    (hunflushed : w.flushed = false → nx + 2 * c.xoff = w.xread) (hflushed : w.flushed = true → nx + c.xoff = w.xread) :
    ∃ w', passAndDrain c nx w = .done w' := by
  have hdt := hc.dt_le
  obtain ⟨hkeep, hload⟩ : nx + c.xoff ≤ w.xread ∧ w.x.Written (nx + 2 * c.xoff) := by
    cases hf : w.flushed with
    | false => exact ⟨by have := hunflushed hf; omega, hunflushed hf ▸ hwritten⟩
    | true =>
      rw [Work.Padded, hf, if_pos rfl] at hpadded
      exact ⟨(hflushed hf).le, hpadded.mono (by have := hflushed hf; omega)⟩
  obtain ⟨w1, hpass⟩ := pass_done_of_written hc hge (by omega) hload
  obtain ⟨y, -, hw1, hnout, hmade, hbound, htime⟩ := pass_done hpass
  have htime := htime (by omega)
  obtain ⟨time, creep, hsum, hge1, -, hcursor⟩ := retireCursor_rebases hbound
  have hx1 : w1.x = w.x := by rw [hw1]
  have hxread1 : w1.xread = w.xread := by rw [hw1]
  have hxp1 : w1.xp = w.xp := by rw [hw1]
  have hy1 : w1.y = y := by rw [hw1]
  have hwritten1 : w1.written = w.written := by rw [hw1]; rfl
  obtain ⟨x, -, hretire⟩ := retireShift_completes (c := c) (w := { w1 with time, xp := w1.xp + nx + creep })
    (by rw [hx1, hxread1]; exact hwritten) (by rw [hxread1]; exact hxread.trans (Nat.le_add_right ..))
    (by dsimp only; omega)
  obtain ⟨w', hdrain⟩ := drain_done_of_ready (w := { w1 with
      time, x, xread := w1.xread - (w1.xp + nx + creep - c.xoff), xp := c.xoff, yp := w1.nout })
    hc (hwritten1 ▸ hroom) hnout (hy1 ▸ hmade)
  exact ⟨w', by rw [passAndDrain, hpass, Run.done_andThen, hcursor, hretire, Run.done_andThen, hdrain]⟩

/-- The passes of a PROCESS are done (42_engine.md R188, R219). -/
theorem passes_done_of_ready (hc : c.Streams stream pos) : ∀ (bound : Nat) {w : Work}, Work.Fits c w →
    w.written ≤ c.room → w.flushed = false → ∃ w', passes c bound w = .done w'
  | 0, w, _, _, _ => ⟨w, rfl⟩
  | bound + 1, w, hfits, hroom, hunflushed => by
    obtain ⟨w1, hpull, htime, hxp, hxread, hwritten, hpadded, hflushed⟩ :=
      pullAndPad_done_of_ready hc hfits hunflushed
    have hroom1 := (pullAndPad_reaches hpull).written hroom
    rw [passes, hpull]
    simp only [Run.done_andThen]
    split
    · exact ⟨w1, rfl⟩
    · next hsome =>
      obtain ⟨hnx, hlast, hnormal⟩ := eligible_toNat hsome
      have hge := htime ▸ hfits.time_ge
      have hlt := htime ▸ hfits.time_lt
      have hxp := hxp.trans hfits.xp_eq
      rw [← hflushed] at hlast hnormal hnx ⊢
      obtain ⟨w2, hpass⟩ := passAndDrain_done_of_written hc hroom1 hge hlt hxp hnx hxread hwritten hpadded hnormal hlast
      obtain ⟨hfits2, hflushed2, hused2⟩ := passAndDrain_fits hpass hc.dt_le hge hlt hxp hwritten hnx hnormal hlast
      rw [hpass, Run.done_andThen]
      split
      · exact ⟨w2, rfl⟩
      · next hgoes =>
        refine passes_done_of_ready hc bound hfits2 ((passAndDrain_reaches hpass).written hroom1) ?_
        rw [hflushed2, hflushed, ← Bool.not_eq_true]
        exact fun hf => hgoes (stopsAfterPass_of_used (hused2.trans (used_of_finalBatch hf)))

/-- A PROCESS within the invariants is done when no port makes it wait (42_engine.md R219). -/
theorem processRun_done_of_ready (hc : c.Streams stream pos) (hfits : Work.Fits c w) (hroom : w.written ≤ c.room) :
    ∃ w', processRun c w = .done w' := by
  obtain ⟨w1, hdrain⟩ := drain_done_of_ready hc hroom hfits.yp_le hfits.y_written
  obtain ⟨hfits1, -⟩ := drain_fits hdrain hfits
  rw [processRun, hdrain, Run.done_andThen]
  split
  · exact ⟨w1, rfl⟩
  · next hgoes =>
    rw [not_or, Bool.not_eq_true] at hgoes
    exact passes_done_of_ready hc _ hfits1 ((drain_reaches hdrain).written hroom) hgoes.2

end

/-- An accepted PROCESS is done: its offer is itself a stream that it takes the next samples of. -/
theorem processRun_done_of_accepts {s : State} (last : Bool) (hinv : s.StreamInv) (hreach : s.SizesReach)
    (hrom : RomTotal s.params s.cfgQuality) (hacc : s.Accepts) :
    ∃ w, processRun (s.call last) s.work = .done w := by
  obtain ⟨hfault, hconf, -⟩ := processRefusal_eq_none.mp hacc.1
  obtain ⟨-, hcursor, hwords, -⟩ := hinv.2.2 hconf hfault
  have hlength : 0 + s.opInCount.toNat = (s.inPort.take s.opInCount.toNat).length := by simpa using hacc.2.1
  exact processRun_done_of_ready (pos := 0) (stream := s.inPort.take s.opInCount.toNat)
    (call_streams hinv hreach hrom hacc (by simp) hlength.le fun _ => hlength) (work_fits last hcursor hwords)
    (Nat.zero_le _)

theorem exec_process_of_done {s : State} {last : Bool} {w : Work} (hr : processRefusal s = none)
    (h : processRun (s.call last) s.work = .done w) : exec (.process last) s = .next (s.finishProcess w) := by
  simp only [exec, execProcess, hr, h]

/-- Settles O43: every part of an accepted PROCESS is done. -/
theorem acceptedProcessCompletes : Obligations.AcceptedProcessCompletes := by
  intro s last hinv hreach hrom hacc
  obtain ⟨hfault, hconf, -⟩ := processRefusal_eq_none.mp hacc.1
  obtain ⟨w, hw⟩ := processRun_done_of_accepts last hinv hreach hrom hacc
  exact ⟨_, exec_process_of_done hacc.1 hw, rfl, hfault, rfl, hconf⟩

/-! ## A port that is not ready makes PROCESS wait and does nothing else -/

/-- The run is the other one, unless it waits. -/
def Run.Waits (r r' : Run) : Prop := (∃ w, r = .stall w) ∨ r = r'

/-- The call with every sample presented, zeros where the host presents none, and an output port that accepts what
comes. -/
def Call.withReadyPorts (c : Call) : Call :=
  { c with offer := c.offer ++ List.replicate c.n Sample.zero, ready := none }

section
variable {c : Call}

theorem Run.Waits.refl {r : Run} : r.Waits r := .inr rfl

theorem Run.Waits.andThen {r r' : Run} {f f' : Work → Run} (h : r.Waits r') (hf : ∀ w, (f w).Waits (f' w)) :
    (r.andThen f).Waits (r'.andThen f') := by
  obtain ⟨w, rfl⟩ | rfl := h
  · exact .inl ⟨w, rfl⟩
  · cases r with
    | done w => exact hf w
    | fault cause w => exact .refl
    | stall w => exact .refl

theorem forRange_waits {body body' : Nat → Work → Run} (h : ∀ k w, (body k w).Waits (body' k w)) :
    ∀ (count first : Nat) (w : Work), (forRange body first count w).Waits (forRange body' first count w)
  | 0, _, _ => .refl
  | count + 1, first, w => (h first w).andThen (forRange_waits h count (first + 1))

theorem outWrite_waits (src : Nat) (w : Work) : (outWrite c src w).Waits (outWrite c.withReadyPorts src w) := by
  have haccepts : c.withReadyPorts.accepts w.written = true := rfl
  have hread : yRead c.withReadyPorts w.y src = yRead c w.y src := rfl
  unfold outWrite
  rw [hread, haccepts]
  cases yRead c w.y src with
  | none => exact .refl
  | some v =>
    cases c.accepts w.written with
    | true => exact .refl
    | false => exact .inl ⟨w, rfl⟩

theorem pullOne_waits (k : Nat) (w : Work) : (pullOne c k w).Waits (pullOne c.withReadyPorts k w) := by
  have hread : ∀ v, c.inRead w.used = some v → c.withReadyPorts.inRead w.used = some v := by
    intro v hv
    simp only [Call.inRead, Option.ite_none_right_eq_some] at hv
    obtain ⟨hlt, hv⟩ := hv
    exact (if_pos hlt).trans (List.getElem?_append_left (List.getElem?_eq_some_iff.mp hv).1 ▸ hv)
  unfold pullOne
  cases hin : c.inRead w.used with
  | none => exact .inl ⟨w, rfl⟩
  | some v =>
    rw [hread v hin]
    exact .refl

theorem drain_waits (w : Work) : (drain c w).Waits (drain c.withReadyPorts w) :=
  (forRange_waits outWrite_waits _ _ w).andThen fun _ => .refl

theorem pullAndPad_waits (w : Work) : (pullAndPad c w).Waits (pullAndPad c.withReadyPorts w) :=
  (forRange_waits pullOne_waits _ _ w).andThen fun _ => .refl

theorem passOne_withReadyPorts (c : Call) : passOne c.withReadyPorts = passOne c := by
  funext w
  have hsame : SameKernel c c.withReadyPorts := rfl
  have hsample : sample c.withReadyPorts w.x w.time = sample c w.x w.time := hsame.sample_eq rfl w.x w.time
  unfold passOne
  rw [hsample]
  rfl

/-- A pass does not use the ports. -/
theorem passFrom_withReadyPorts (c : Call) (bound : Nat) : ∀ (slots : Nat) (w : Work),
    passFrom c.withReadyPorts bound slots w = passFrom c bound slots w
  | 0, _ => rfl
  | slots + 1, w => by
    rw [passFrom, passFrom, passOne_withReadyPorts, funext (passFrom_withReadyPorts c bound slots)]

theorem passAndDrain_waits (nx : Nat) (w : Work) :
    (passAndDrain c nx w).Waits (passAndDrain c.withReadyPorts nx w) := by
  have hpass : pass c.withReadyPorts nx w = pass c nx w := passFrom_withReadyPorts c _ _ _
  unfold passAndDrain
  rw [hpass]
  exact Run.Waits.refl.andThen fun _ => Run.Waits.refl.andThen drain_waits

theorem passes_waits : ∀ (bound : Nat) (w : Work), (passes c bound w).Waits (passes c.withReadyPorts bound w)
  | 0, _ => .refl
  | bound + 1, w => by
    refine (pullAndPad_waits w).andThen fun w1 => ?_
    change Run.Waits (if eligible c (finalBatch c w1) w1 ≤ 0 then _ else _)
      (if eligible c (finalBatch c w1) w1 ≤ 0 then _ else _)
    split
    · exact .refl
    · refine (passAndDrain_waits _ w1).andThen fun w2 => ?_
      change Run.Waits (if stopsAfterPass c w2 = true then _ else _) (if stopsAfterPass c w2 = true then _ else _)
      split
      · exact .refl
      · exact passes_waits bound w2

/-- A PROCESS runs as it would with ready ports, until a port makes it wait (70_reset_and_hazards.md R276). -/
theorem processRun_waits (w : Work) : (processRun c w).Waits (processRun c.withReadyPorts w) := by
  refine (drain_waits w).andThen fun w1 => ?_
  split
  · exact .refl
  · exact passes_waits _ w1

end

/-! ## No step faults -/

/-- An accepted PROCESS within the invariants does not fault, be the ports ready or not (42_engine.md R219). -/
theorem processRun_ne_fault {s : State} {last : Bool} {cause : FaultCause} {w : Work} (hinv : s.StreamInv)
    (hreach : s.SizesReach) (hrom : RomTotal s.params s.cfgQuality) (hr : processRefusal s = none) :
    processRun (s.call last) s.work ≠ .fault cause w := by
  intro h
  have hready := processRun_waits (c := s.call last) s.work
  rw [h] at hready
  obtain ⟨w', hdone⟩ := processRun_done_of_accepts
    (s := { s with inPort := s.inPort ++ List.replicate s.opInCount.toNat Sample.zero, outReady := none })
    last hinv hreach hrom ⟨hr, by simp, nofun⟩
  obtain ⟨_, hstall⟩ | heq := hready
  · simp at hstall
  · exact Run.noConfusion (heq.trans hdone)

/-- Both commands keep a block free of faults and of their causes. -/
theorem exec_keeps_sound {i : Instr} {s t : State} (hs : s.Sound) (h : exec i s = .next t) : t.Sound := by
  have hinv := exec_keeps_streamInv hs.1 h
  have hparams : t.params = s.params := (exec_frame h).1
  obtain ⟨hsinv, hfault, hreach, hfast, hhigh⟩ := hs
  suffices t.fault = none ∧ (t.configured = true → t.SizesReach) from
    ⟨hinv, this.1, this.2, hparams ▸ hfast, hparams ▸ hhigh⟩
  cases i with
  | config quality interp =>
    have hfits := configSizesReachEveryFactor s t quality interp hsinv.1.1 hfault h
    obtain ⟨hfaulted, -⟩ | ⟨-, code, -, rfl⟩ | ⟨-, q, z, -, rfl⟩ := execConfig_cases h
    · simp [hfault] at hfaulted
    · exact ⟨hfault, by simp⟩
    · exact ⟨hfault, fun _ => hfits rfl⟩
  | process last =>
    obtain ⟨code, -, rfl⟩ | ⟨-, w, -, rfl⟩ | ⟨hr, cause, w, hw, rfl⟩ | ⟨-, w, -, rfl⟩ := execProcess_cases h
    · exact ⟨hfault, hreach⟩
    · exact ⟨hfault, hreach⟩
    · obtain ⟨-, hconf, -⟩ := processRefusal_eq_none.mp hr
      have hrom : RomTotal s.params s.cfgQuality := by cases s.cfgQuality <;> assumption
      exact absurd hw (processRun_ne_fault hsinv (hreach hconf) hrom hr)
    · exact ⟨hfault, hreach⟩

/-- Settles O60: serving an event leaves the block's own part alone or resets it, and neither command faults. -/
theorem noStepFaults : Obligations.NoStepFaults := by
  intro s t hs h
  obtain hserved | ⟨i, u, -, hu, he⟩ := step_effect h
  · cases hserved with
    | quiet hsame => exact hsame.transport (fun _ => Iff.rfl) hs
    | dropped _ _ hsame => exact hsame.transport (s := { s with overrun := true }) (fun _ => Iff.rfl) hs
    | reset _ hsame =>
      obtain ⟨⟨hfit, -⟩, -, -, hfast, hhigh⟩ := hsame.transport (P := State.Sound) (fun _ => Iff.rfl) hs
      exact ⟨streamInv_of_unconfigured hfit rfl rfl rfl, rfl, nofun, hfast, hhigh⟩
  · exact exec_keeps_sound (hu.transport (fun _ => Iff.rfl) hs) he

end Sys2Proof.Machine
end

section
/-! PROOFS. CONFIG: what it refuses, what a refusal leaves, the sizes it computes and the stream it starts
(spec/42_engine.md R181 to R186). -/

namespace Sys2Proof.Machine

/-! ## The checks -/

section
variable {s : State} {quality : Nat} {q : Quality} {interp : Bool}

theorem configOutcome_of_bad_bounds (h : boundsOk s.opMinFactor s.opMaxFactor = false) :
    configOutcome quality s = .error .bounds := by
  rw [configOutcome, if_pos h]

/-- With good bounds and a tier, the sizes decide (60_exceptions.md R236). -/
theorem configOutcome_of_no_sizes (hb : boundsOk s.opMinFactor s.opMaxFactor = true) (hq : tierOf quality = some q)
    (hz : sizesFor s.params q s.opMinFactor s.opMaxFactor = none) : configOutcome quality s = .error .capacity := by
  simp only [configOutcome, hb, hq, hz, Bool.true_eq_false, if_false]

theorem configOutcome_of_sizes {z : Sizes} (hb : boundsOk s.opMinFactor s.opMaxFactor = true)
    (hq : tierOf quality = some q) (hz : sizesFor s.params q s.opMinFactor s.opMaxFactor = some z) :
    configOutcome quality s = .ok (q, z) := by
  simp only [configOutcome, hb, hq, hz, Bool.true_eq_false, if_false]

theorem exec_config_of_ok {z : Sizes} (hf : s.fault = none) (h : configOutcome quality s = .ok (q, z)) :
    exec (.config quality interp) s = .next (s.startStream q interp z) := by
  simp [exec, execConfig, hf, h]

/-- QUALITY 0 and 1 select the two tiers (10_state.md R48). -/
theorem tierOf_eq_some : tierOf quality = some q ↔ quality = 0 ∧ q = .fast ∨ quality = 1 ∧ q = .high := by
  match quality with
  | 0 => simp [tierOf, eq_comm]
  | 1 => simp [tierOf, eq_comm]
  | _ + 2 => simp [tierOf]

theorem qualityCode_of_tierOf (h : tierOf quality = some q) : qualityCode q = quality := by
  obtain ⟨rfl, rfl⟩ | ⟨rfl, rfl⟩ := tierOf_eq_some.mp h <;> rfl

end

/-- The sizes do not fit exactly when one of the three checks of the pseudocode fails (42_engine.md R181). -/
theorem sizesFor_eq_none {p : Params} {q : Quality} {a b : F64} :
    let xoff := f64Floor (xoffReal p q a)
    let xsize := max (2 * xoff + p.xsizePad) p.xsizeMin
    sizesFor p q a b = none ↔ f64Lt (xoffReal p q a) (f64OfNat p.xCap) = false ∨ p.xCap < xsize + xoff ∨
      f64Lt (ysizeReal p xsize b) (f64Add (f64OfNat p.yCap) F64.one) = false := by
  unfold sizesFor
  dsimp only
  split
  · next h => simp only [h, true_or]
  · next h =>
    split
    · next h' => simp only [h', true_or, or_true]
    · next h' => split <;> simp only [*, or_true, or_false, reduceCtorEq]

/-! ## Failed construction -/

theorem SameEngine.configured {s t : State} (h : SameEngine s t) : t.configured = s.configured :=
  h.transport (P := (·.configured = s.configured)) (fun _ => Iff.rfl) rfl

theorem State.runsConfig_of_runs {s : State} {quality : Nat} {interp : Bool} (h : s.Runs (.config quality interp)) :
    s.runsConfig := by
  obtain ⟨hr, hleft⟩ | ⟨hr, w, rest, hbus, hw⟩ := h
  · exact .inl ⟨quality, interp, hr, hleft⟩
  · exact .inr ⟨hr, w, rest, quality, interp, hbus, hw⟩

/-- A PROCESS that its checks refuse changes only STATUS.ERR (42_engine.md R189). -/
theorem exec_process_of_refusal {s : State} {last : Bool} {code : ErrCode} (h : processRefusal s = some code) :
    exec (.process last) s = .next (s.raiseErr code) := by
  simp only [exec, execProcess, h]

theorem processRefusal_of_unconfigured {s : State} (hf : s.fault = none) (hc : s.configured = false) :
    processRefusal s = some .notConfigured := by
  simp [processRefusal, hf, hc]

/-- Settles O22: the bounds are checked first. -/
theorem configRefusesBadBounds : Obligations.ConfigRefusesBadBounds := by
  intro s quality interp hf hbad
  rw [← boundsOk_iff, Bool.not_eq_true] at hbad
  exact exec_config_of_error hf (configOutcome_of_bad_bounds hbad)

/-- Settles O24: a failed CONFIG clears the stream, and only a CONFIG that succeeds sets CONFIGURED. -/
theorem failedConfigDiscardsTheStream : Obligations.FailedConfigDiscardsTheStream := by
  refine ⟨fun s t quality interp hf h herr => ?_, fun s last hf hc => ?_, fun s t hc h ht => ?_⟩
  · obtain ⟨hfaulted, -⟩ | ⟨-, code, -, rfl⟩ | ⟨-, q, z, -, rfl⟩ := execConfig_cases h
    · simp [hf] at hfaulted
    · exact ⟨rfl, rfl, rfl, rfl, rfl, rfl, rfl, rfl, rfl, rfl, rfl, rfl, rfl, fun _ => rfl, fun _ => rfl, rfl,
        ⟨rfl, rfl, rfl⟩, ⟨rfl, rfl, rfl, rfl, rfl⟩, ⟨rfl, rfl, rfl, rfl⟩, hf, rfl, rfl, ⟨rfl, rfl, rfl⟩⟩
    · exact absurd rfl herr
  · exact exec_process_of_refusal (processRefusal_of_unconfigured hf hc)
  · obtain hserved | ⟨i, u, hruns, hu, he⟩ := step_effect h
    · cases hserved with
      | quiet hsame => simp [hsame.configured, hc] at ht
      | dropped _ _ hsame => simp [hsame.configured, hc] at ht
      | reset _ _ => exact absurd ht (by simp [State.resetInput, State.reset])
    · have hcu : u.configured = false := hu.configured.trans hc
      cases i with
      | config quality interp =>
        refine ⟨State.runsConfig_of_runs hruns, ?_⟩
        obtain ⟨-, rfl⟩ | ⟨-, code, -, rfl⟩ | ⟨-, q, z, -, rfl⟩ := execConfig_cases he
        · simp [hcu] at ht
        · simp at ht
        · rfl
      | process last =>
        obtain ⟨⟨-, -, -, -, -, -, -, -, hconf, -⟩, -⟩ := execProcess_frame he
        simp [hconf, hcu] at ht

/-! ## Sizes and the fresh stream -/

/-- Settles O25: the three checks decide between ERR_CAPACITY and the sizes. -/
theorem configSizesTheBuffers : Obligations.ConfigSizesTheBuffers := by
  intro s quality q interp hf hb hq
  have hq := tierOf_eq_some.mpr hq
  have hnone := sizesFor_eq_none (p := s.params) (q := q) (a := s.opMinFactor) (b := s.opMaxFactor)
  cases hz : sizesFor s.params q s.opMinFactor s.opMaxFactor with
  | none =>
    exact ⟨_, exec_config_of_error hf (configOutcome_of_no_sizes hb hq hz), fun _ => ⟨rfl, rfl, rfl, rfl⟩,
      fun hfits => absurd (hnone.mp hz) hfits⟩
  | some z =>
    obtain ⟨-, hxoff, hxsize, -, -, hysize⟩ := sizesFor_eq_some hz
    rw [hxoff] at hxsize
    rw [hxsize] at hysize
    refine ⟨_, exec_config_of_ok hf (configOutcome_of_sizes hb hq hz), fun hbig => ?_,
      fun _ => ⟨rfl, congrArg (BitVec.ofNat 32) hxoff, congrArg (BitVec.ofNat 32) hxsize,
        congrArg (BitVec.ofNat 32) hysize, rfl⟩⟩
    exact absurd (hz.symm.trans (hnone.mpr hbig)) (by simp)

/-- Settles O26: what CONFIG commits once its checks have passed. -/
theorem configStartsAFreshStream : Obligations.ConfigStartsAFreshStream := by
  intro s quality q interp z hf hb hq hz
  have hq := tierOf_eq_some.mpr hq
  refine ⟨_, exec_config_of_ok hf (configOutcome_of_sizes hb hq hz), rfl, rfl, rfl, rfl, rfl, rfl, rfl, ?_, rfl, rfl,
    rfl, rfl, rfl, rfl, rfl, rfl, rfl, rfl, Memory.read_zeros z.xoff, fun _ => rfl, ⟨rfl, rfl, rfl, rfl, rfl⟩,
    ⟨rfl, rfl, rfl, rfl⟩, rfl, hf, rfl, ⟨rfl, rfl, rfl⟩⟩
  rw [← qualityCode_of_tierOf hq]
  rfl

end Sys2Proof.Machine
end

section
/-! PROOFS. A PROCESS that is refused, that only drains, that finds nothing to do, and that ends an empty stream
(spec/42_engine.md R189, R191, R206, R209, R210). -/

namespace Sys2Proof.Machine

/-! ## The call checks -/

theorem processRefusal_of_factor {s : State} (hf : s.fault = none) (hc : s.configured = true)
    (hfactor : ¬ (f64Le s.cfgMinFactor s.opFactor = true ∧ f64Le s.opFactor s.cfgMaxFactor = true)) :
    processRefusal s = some .factor := by
  rw [← Bool.and_eq_true, Bool.not_eq_true] at hfactor
  simp [processRefusal, hf, hc, hfactor]

/-- After the flush an offer is refused (42_engine.md R189). -/
theorem processRefusal_of_exhausted {s : State} (hf : s.fault = none) (hc : s.configured = true)
    (hmin : f64Le s.cfgMinFactor s.opFactor = true) (hmax : f64Le s.opFactor s.cfgMaxFactor = true)
    (hflushed : s.flushed = true) (hoffer : s.opInCount ≠ 0#32) : processRefusal s = some .exhausted := by
  simp [processRefusal, hf, hc, hmin, hmax, hflushed, hoffer]

/-- Settles O29: the checks, each where the ones before it pass. -/
theorem processRefusals : Obligations.ProcessRefusals := by
  intro s last hf
  refine ⟨fun hc => ?_, fun hc hfactor => ?_, fun hc hmin hmax hflushed hoffer => ?_, fun hc hmin hmax hoffer => ?_⟩
  · exact exec_process_of_refusal (processRefusal_of_unconfigured hf hc)
  · exact exec_process_of_refusal (processRefusal_of_factor hf hc hfactor)
  · exact exec_process_of_refusal (processRefusal_of_exhausted hf hc hmin hmax hflushed hoffer)
  · exact processRefusal_eq_none.mpr ⟨hf, hc, hmin, hmax, fun hflushed => hoffer.resolve_left (by simp [hflushed])⟩

/-! ## Parts that find nothing to do -/

section
variable {c : Call} {w w1 : Work}

theorem drain_of_no_pending (h : w.yp = 0) : drain c w = .done w := by
  obtain ⟨x, y, time, xp, xread, yp, flushed, nout, moves⟩ := w
  obtain rfl : yp = 0 := h
  simp [drain]

theorem pull_of_no_offer (h : c.n = 0) : pull c w = .done w := by
  simp [pull, h]

theorem processRun_of_stops (hdrain : drain c w = .done w1) (hstop : 0 < w1.yp ∨ w1.flushed = true) :
    processRun c w = .done w1 := by
  rw [processRun, hdrain, Run.done_andThen, if_pos hstop]

/-- A PROCESS that drained everything and finds no eligible sample ends there (42_engine.md R193). -/
theorem processRun_of_none_eligible {w2 : Work} (hdrain : drain c w = .done w1) (hyp : w1.yp = 0)
    (hunflushed : w1.flushed = false) (hpull : pullAndPad c w1 = .done w2)
    (hnone : eligible c (finalBatch c w2) w2 ≤ 0) : processRun c w = .done w2 := by
  rw [processRun, hdrain, Run.done_andThen, if_neg (by simp [hyp, hunflushed]), passBound, passes, hpull,
    Run.done_andThen, if_pos hnone]

end

/-! ## PROCESS that only drains -/

section
variable {s : State} {last : Bool}

/-- With output left pending, or after the flush, PROCESS delivers what the room holds and does nothing else
(42_engine.md R191). -/
theorem exec_process_only_drains (hr : processRefusal s = none) (htakes : s.Takes (min s.opOutRoom.toNat s.yp.toNat))
    (hyp : s.yp.toNat ≤ s.ysize.toNat) (hwritten : s.y.Written s.yp.toNat)
    (hstop : s.opOutRoom.toNat < s.yp.toNat ∨ s.flushed = true) : ∃ (y : Memory) (out : List Sample),
    out.length = min s.opOutRoom.toNat s.yp.toNat ∧ out.map some = (List.range out.length).map s.y.read ∧
    (∀ j < s.yp.toNat - out.length, y.read j = s.y.read (j + out.length)) ∧
    exec (.process last) s =
      .next (s.finishProcess { s.work with y, yp := s.yp.toNat - out.length, moves := out.map .output }) := by
  obtain ⟨y, out, hlen, hout, hy, hrun⟩ := drain_completes (c := s.call last) (w := s.work) hyp hwritten
    (by simpa [State.Takes, State.call, State.work, Work.written_eq] using htakes)
  have hlen : out.length = min s.opOutRoom.toNat s.yp.toNat := hlen
  refine ⟨y, out, hlen, hout, fun j hj => ?_, ?_⟩
  · have hread := hy.inside hj
    rw [Nat.zero_add] at hread
    exact hread
  refine exec_process_of_done hr (processRun_of_stops hrun (hstop.imp_left fun hlt => ?_))
  change 0 < s.yp.toNat - out.length
  omega

/-- What PROCESS leaves when it took nothing and delivered nothing. -/
theorem finishProcess_work (s : State) : s.finishProcess s.work = { s with
    running := none, err := .ok, resInUsed := 0#32, resOutWritten := 0#32, noProgress := true } := by
  obtain ⟨⟩ := s
  simp [State.finishProcess, State.movePorts, State.work, Work.used_eq, Work.written_eq]

/-- Without an offer, pending output or an eligible sample PROCESS finds nothing to do (42_engine.md R206). -/
theorem processRun_of_nothing_eligible (hoffer : s.opInCount = 0#32) (hyp : s.yp = 0#32)
    (hunflushed : s.flushed = false) (hxread : s.xread.toNat ≤ 2 * s.xoff.toNat) : processRun (s.call false) s.work = .done s.work := by
  have hpull : pull (s.call false) s.work = .done s.work := pull_of_no_offer (congrArg BitVec.toNat hoffer)
  have hfinal : ¬ finalBatch (s.call false) s.work = true := by simp [finalBatch, State.call]
  have hyp' : s.work.yp = 0 := congrArg BitVec.toNat hyp
  refine processRun_of_none_eligible (drain_of_no_pending hyp') hyp' hunflushed
    (pullAndPad_of_not_final hpull hfinal) ?_
  rw [eligible, if_neg hfinal]
  change (s.xread.toNat : Int) - 2 * s.xoff.toNat ≤ 0
  omega

/-- LAST without an offer pads a fresh stream and makes no pass (42_engine.md R210). -/
theorem exec_process_of_empty_stream (hr : processRefusal s = none) (hoffer : s.opInCount = 0#32) (hyp : s.yp = 0#32)
    (hunflushed : s.flushed = false) (hxread : s.xread = s.xoff) (hxsize : s.xoff.toNat ≤ s.xsize.toNat) :
    ∃ t, exec (.process true) s = .next t ∧ t.err = .ok ∧ t.engineState = .exhausted ∧ t.noProgress = true ∧
      t.outPort = s.outPort ∧ t.inPort = s.inPort := by
  obtain ⟨hf, hconf, -⟩ := processRefusal_eq_none.mp hr
  have hpull : pull (s.call true) s.work = .done s.work := pull_of_no_offer (congrArg BitVec.toNat hoffer)
  have hfinal : finalBatch (s.call true) s.work = true :=
    finalBatch_eq_true.mpr ⟨rfl, (congrArg BitVec.toNat hoffer).symm⟩
  have hyp' : s.work.yp = 0 := congrArg BitVec.toNat hyp
  obtain ⟨x, -, hpad⟩ := pullAndPad_of_final hpull hfinal (by rw [State.work, hxread]; exact hxsize)
  have hnone : eligible (s.call true) (finalBatch (s.call true) { s.work with x, flushed := true })
      { s.work with x, flushed := true } ≤ 0 := by
    have hfinal' : finalBatch (s.call true) { s.work with x, flushed := true } = true := hfinal
    rw [eligible, if_pos hfinal']
    change (s.xread.toNat : Int) - s.xoff.toNat ≤ 0
    rw [hxread]
    omega
  have hrun := processRun_of_none_eligible (drain_of_no_pending hyp') hyp' hunflushed hpad hnone
  refine ⟨_, exec_process_of_done hr hrun, rfl, ?_, rfl, by simp [Work.out_eq, State.work],
    by simp [Work.used_eq, State.work]⟩
  rw [engineState_of_idle (s := s.finishProcess _) hf rfl]
  simp [hconf, hyp']

end

/-- Settles O47: less room than pending output leaves some of it pending. -/
theorem pendingOutputBlocksInput : Obligations.PendingOutputBlocksInput := by
  intro s last hr hroom htakes hyp hwritten
  have hmin : min s.opOutRoom.toNat s.yp.toNat = s.opOutRoom.toNat := Nat.min_eq_left hroom.le
  obtain ⟨y, out, hlen, hout, hy, hexec⟩ := exec_process_only_drains (last := last) hr (hmin.symm ▸ htakes) hyp
    hwritten (.inl hroom)
  rw [hmin] at hlen
  rw [hlen] at hout hy hexec
  have hypn : (BitVec.ofNat 32 (s.yp.toNat - s.opOutRoom.toNat)).toNat = s.yp.toNat - s.opOutRoom.toNat :=
    Nat.mod_eq_of_lt (by omega)
  refine ⟨_, hexec, rfl, rfl, ?_, ?_, ?_, hypn, ?_, fun j hj => hy j (hj.trans_eq hypn), ?_, rfl, ?_, ?_, ?_, rfl,
    ⟨rfl, rfl, rfl, rfl, rfl, rfl, rfl, rfl, rfl, rfl⟩, ⟨rfl, rfl, rfl, rfl, rfl⟩, rfl⟩
  · simp [Work.used_eq]
  · simp [Work.written_eq, hlen]
  · simp [Work.used_eq, Work.written_eq, hlen, ← BitVec.toNat_inj]
  · simp [Work.out_eq, hout]
  · simp [Work.used_eq]
  · simp [State.work]
  · simp [State.work]
  · simp [State.work]

/-- Settles O48: after the flush DRAIN is all there is, and with nothing pending it is nothing. -/
theorem afterTheFlushOnlyDraining : Obligations.AfterTheFlushOnlyDraining := by
  refine ⟨fun s last hr hflushed hyp htakes hwritten => ?_, fun s last hr hflushed hyp => ?_⟩
  · obtain ⟨y, out, hlen, hout, -, hexec⟩ := exec_process_only_drains (last := last) hr htakes hyp hwritten
      (.inr hflushed)
    rw [← hlen]
    have hypn : (BitVec.ofNat 32 (s.yp.toNat - out.length)).toNat = s.yp.toNat - out.length :=
      Nat.mod_eq_of_lt (by omega)
    refine ⟨_, hexec, rfl, rfl, ?_, ?_, hypn, ?_, hflushed, rfl, ?_, ?_, ?_, ?_⟩
    · simp [Work.used_eq]
    · simpa [Work.written_eq] using (show out.length < 2 ^ 32 by omega)
    · simp [Work.out_eq, hout]
    · simp [State.work]
    · simp [State.work]
    · simp [State.work]
    · simp [Work.used_eq]
  · rw [← finishProcess_work]
    exact exec_process_of_done hr
      (processRun_of_stops (drain_of_no_pending (congrArg BitVec.toNat hyp)) (.inr hflushed))

/-- Settles O49: no part of PROCESS finds anything to do. -/
theorem nothingEligibleChangesNothing : Obligations.NothingEligibleChangesNothing := by
  intro s hr hoffer hyp hunflushed hxread
  rw [← finishProcess_work]
  exact exec_process_of_done hr (processRun_of_nothing_eligible hoffer hyp hunflushed hxread)

/-- Settles O50: the padding of an empty stream makes no sample eligible. -/
theorem emptyStreamExhaustsAtOnce : Obligations.EmptyStreamExhaustsAtOnce := by
  intro s u quality interp f room hsized hf h hok hmin hmax
  obtain ⟨q, z, hab, -, hz, rfl⟩ := execConfig_ok h hok
  obtain ⟨hxoff, hxsize, -⟩ := sizesFor_reach hsized hab hz
  obtain ⟨-, hle, -⟩ := sizesFor_fits hsized hab hz
  have hsize : (BitVec.ofNat 32 z.xoff).toNat ≤ (BitVec.ofNat 32 z.xsize).toNat := by
    rw [BitVec.toNat_ofNat, BitVec.toNat_ofNat, Nat.mod_eq_of_lt hxoff, Nat.mod_eq_of_lt hxsize]
    omega
  exact exec_process_of_empty_stream
    (s := { s.startStream q interp z with opFactor := f, opInCount := 0#32, opOutRoom := room })
    (processRefusal_eq_none.mpr ⟨hf, rfl, hmin, hmax, fun _ => rfl⟩) rfl rfl rfl rfl hsize

end Sys2Proof.Machine
end

section
/-! PROOFS. What a PROCESS that is done has got done, and the engine states it leads between (spec/42_engine.md R194,
R213, R215, spec/10_state.md R64). -/

namespace Sys2Proof.Machine

/-! ## The transfers of a PROCESS, one part after the other -/

section
variable {c : Call} {w w' : Work}

/-- Later transfers do not undo earlier ones. -/
theorem Work.used_le_of_sublist (h : w.moves.Sublist w'.moves) : w.used ≤ w'.used := h.countP_le

theorem Work.written_le_of_sublist (h : w.moves.Sublist w'.moves) : w.written ≤ w'.written :=
  (h.filterMap _).length_le

/-- A pass, the retiring and the drain after it take no sample, and leave FLUSHED alone. -/
theorem passAndDrain_done_moves {nx : Nat} (h : passAndDrain c nx w = .done w') :
    w'.flushed = w.flushed ∧ w'.used = w.used ∧ w.moves.Sublist w'.moves := by
  unfold passAndDrain at h
  obtain ⟨w1, h1, h⟩ := Run.andThen_eq_done.mp h
  obtain ⟨w2, h2, h⟩ := Run.andThen_eq_done.mp h
  obtain ⟨y, -, hw1, -⟩ := pass_done h1
  obtain ⟨x, -, hw2⟩ := retireShift_done h2
  obtain ⟨y', out, -, -, rfl⟩ := drain_done h
  rw [hw2, retireCursor, hw1]
  exact ⟨rfl, by simp [Work.used_eq], List.sublist_append_left ..⟩

theorem pullAndPad_moves (h : pullAndPad c w = .done w') : w.moves.Sublist w'.moves := by
  obtain ⟨x, count, -, -, -, hw'⟩ := pullAndPad_done h
  rw [hw']
  exact List.sublist_append_left ..

/-- The passes begin with a pull, and keep the transfers made. -/
theorem passes_moves : ∀ {bound : Nat} {w : Work}, passes c (bound + 1) w = .done w' →
    ∃ w1, pullAndPad c w = .done w1 ∧ w1.moves.Sublist w'.moves
  | bound, w, h => by
    rw [passes] at h
    obtain ⟨w1, h1, h⟩ := Run.andThen_eq_done.mp h
    refine ⟨w1, h1, ?_⟩
    dsimp only at h
    split at h
    · exact Run.done.inj h ▸ List.Sublist.refl _
    · obtain ⟨w2, h2, h⟩ := Run.andThen_eq_done.mp h
      obtain ⟨-, -, hmoves⟩ := passAndDrain_done_moves h2
      refine hmoves.trans ?_
      split at h
      · exact Run.done.inj h ▸ List.Sublist.refl _
      · match bound with
        | 0 => exact Run.done.inj h ▸ List.Sublist.refl _
        | bound + 1 =>
          obtain ⟨w3, h3, hmoves⟩ := passes_moves h
          exact (pullAndPad_moves h3).trans hmoves

theorem finalBatch_congr (h : w'.used = w.used) : finalBatch c w' = finalBatch c w := by
  rw [finalBatch, h, finalBatch]

/-- The passes flush in the final batch and only there, which their bound does not cut off (42_engine.md R194). -/
theorem passes_flushed : ∀ {bound : Nat} {w : Work}, passes c bound w = .done w' → w.flushed = false →
    (bound = 0 → w.used ≠ c.n) → w'.flushed = finalBatch c w'
  | 0, w, h, hunflushed, hmore => by
    obtain rfl := Run.done.inj h
    rw [hunflushed, eq_comm, ← Bool.not_eq_true]
    exact fun hfinal => hmore rfl (used_of_finalBatch hfinal)
  | bound + 1, w, h, hunflushed, _ => by
    rw [passes] at h
    obtain ⟨w1, h1, h⟩ := Run.andThen_eq_done.mp h
    have hflushed1 : w1.flushed = finalBatch c w1 := by
      obtain ⟨x, count, -, -, -, hw1⟩ := pullAndPad_done h1
      rw [congrArg Work.flushed hw1, hunflushed, Bool.false_or]
    dsimp only at h
    split at h
    · exact Run.done.inj h ▸ hflushed1
    · obtain ⟨w2, h2, h⟩ := Run.andThen_eq_done.mp h
      obtain ⟨hflushed, hused, -⟩ := passAndDrain_done_moves h2
      have hflushed2 : w2.flushed = finalBatch c w2 := by rw [hflushed, hflushed1, finalBatch_congr hused]
      split at h
      · exact Run.done.inj h ▸ hflushed2
      · next hgoes =>
        have hmore : w2.used ≠ c.n := fun hused => hgoes (stopsAfterPass_of_used hused)
        refine passes_flushed h ?_ fun _ => hmore
        rw [hflushed2, ← Bool.not_eq_true]
        exact fun hfinal => hmore (used_of_finalBatch hfinal)

/-- A PROCESS drains, and goes on to the passes when nothing is left pending and the stream has not ended
(42_engine.md R191). -/
theorem processRun_done (h : processRun c w = .done w') : ∃ w1, drain c w = .done w1 ∧
    ((0 < w1.yp ∨ w1.flushed = true) ∧ w' = w1 ∨
      w1.yp = 0 ∧ w1.flushed = false ∧ passes c (passBound c w1) w1 = .done w') := by
  unfold processRun at h
  obtain ⟨w1, h1, h⟩ := Run.andThen_eq_done.mp h
  refine ⟨w1, h1, ?_⟩
  split at h
  · next hstop => exact .inl ⟨hstop, (Run.done.inj h).symm⟩
  · next hgoes =>
    rw [not_or, Bool.not_eq_true] at hgoes
    exact .inr ⟨Nat.eq_zero_of_not_pos hgoes.1, hgoes.2, h⟩

/-- What the first drain delivered stays delivered. -/
theorem processRun_written_ge (h : processRun c w = .done w') :
    w.written + min (c.room - w.written) w.yp ≤ w'.written := by
  obtain ⟨w1, hdrain, hrest⟩ := processRun_done h
  have hwritten : w1.written = w.written + min (c.room - w.written) w.yp := by
    obtain ⟨y, out, -, hlen, rfl⟩ := drain_done hdrain
    simp [Work.written_eq] at hlen ⊢
    exact hlen
  rw [← hwritten]
  obtain ⟨-, rfl⟩ | ⟨-, -, hpasses⟩ := hrest
  · exact le_rfl
  · obtain ⟨w2, hpull, hmoves⟩ := passes_moves hpasses
    exact Work.written_le_of_sublist ((pullAndPad_moves hpull).trans hmoves)

/-- With nothing pending and the stream not ended, what the first pull took stays taken. -/
theorem processRun_used_ge (h : processRun c w = .done w') (hyp : w.yp = 0) (hunflushed : w.flushed = false) :
    w.used + min (c.xsize - w.xread) (c.n - w.used) ≤ w'.used := by
  obtain ⟨w1, hdrain, hrest⟩ := processRun_done h
  obtain rfl : w = w1 := Run.done.inj ((drain_of_no_pending hyp).symm.trans hdrain)
  obtain ⟨hstop, -⟩ | ⟨-, -, hpasses⟩ := hrest
  · simp [hyp, hunflushed] at hstop
  · obtain ⟨w2, hpull, hmoves⟩ := passes_moves hpasses
    have hused := Work.used_le_of_sublist hmoves
    obtain ⟨x, count, -, -, hcount, hw2⟩ := pullAndPad_done hpull
    have hused2 : w2.used = w.used + count := by rw [hw2]; simp [Work.used_eq]
    omega

end

/-- Settles O51: the first drain delivers a pending sample, the first pull takes an offered one. -/
theorem acceptedProcessMakesProgress : Obligations.AcceptedProcessMakesProgress := by
  intro s t last hinv hf h hrun hok
  obtain ⟨hr, w, hw, rfl⟩ := execProcess_ok h hrun hok
  obtain ⟨-, hconf, -⟩ := processRefusal_eq_none.mp hr
  obtain ⟨⟨-, hsize, -⟩, ⟨-, -, -, -, hread, -⟩, -⟩ := hinv.2.2 hconf hf
  obtain ⟨hused, hwritten⟩ := processRun_limits hw
  have hin : (BitVec.ofNat 32 w.used).toNat = w.used := Nat.mod_eq_of_lt (by omega)
  have hout : (BitVec.ofNat 32 w.written).toNat = w.written := Nat.mod_eq_of_lt (by omega)
  simp only [State.finishProcess_resInUsed, State.finishProcess_resOutWritten, ne_eq, ← BitVec.toNat_inj, hin, hout,
    BitVec.toNat_ofNat, Nat.zero_mod]
  refine ⟨fun hyp hunflushed hoffer => ?_, fun hyp hroom => ?_⟩
  · have hge := processRun_used_ge hw hyp hunflushed
    change 0 + min (s.xsize.toNat - s.xread.toNat) (s.opInCount.toNat - 0) ≤ w.used at hge
    obtain ⟨-, hread⟩ := hread hunflushed
    omega
  · have hge := processRun_written_ge hw
    change 0 + min (s.opOutRoom.toNat - 0) s.yp.toNat ≤ w.written at hge
    omega

/-! ## The engine states of an idle block -/

section
variable {s : State} (hr : s.running = none)
include hr

/-- What each engine state of an idle block says of it (10_state.md R64). -/
theorem engineState_idle_iff :
    (s.engineState = .faulted ↔ s.fault ≠ none) ∧
    (s.engineState = .unconfigured ↔ s.fault = none ∧ s.configured = false) ∧
    (s.engineState = .draining ↔ s.fault = none ∧ s.configured = true ∧ s.yp ≠ 0#32) ∧
    (s.engineState = .exhausted ↔ s.fault = none ∧ s.configured = true ∧ s.yp = 0#32 ∧ s.flushed = true) ∧
    (s.engineState = .awaitingInput ↔ s.fault = none ∧ s.configured = true ∧ s.yp = 0#32 ∧ s.flushed = false) := by
  cases hf : s.fault with
  | some cause => simp [engineState_of_fault (s := s) (by simp [hf])]
  | none =>
    rw [engineState_of_idle hf hr]
    split
    · next hc => simp [hc]
    · next hc =>
      split
      · next hy => simp [hc, hy]
      · next hy =>
        have hy := not_not.mp hy
        split <;> next hfl => simp [hc, hy, hfl]

/-- A refusal leaves the engine state alone. -/
theorem engineState_raiseErr (code : ErrCode) : (s.raiseErr code).engineState = s.engineState := by
  unfold State.engineState
  rw [hr]
  rfl

end

/-! ## The transitions -/

/-- A faulted block refuses every command (60_exceptions.md R237). -/
theorem exec_of_fault {s : State} (h : s.fault ≠ none) (i : Instr) : exec i s = .next (s.raiseErr .fault) := by
  have hsome := Option.isSome_iff_ne_none.mpr h
  cases i with
  | config quality interp => simp only [exec, execConfig, if_pos hsome]
  | process last => exact exec_process_of_refusal (by rw [processRefusal, if_pos hsome])

/-- The codes of a CONFIG that its checks refuse (60_exceptions.md R236). -/
theorem configOutcome_error_code {s : State} {quality : Nat} {code : ErrCode}
    (h : configOutcome quality s = .error code) : code = .bounds ∨ code = .quality ∨ code = .capacity := by
  obtain ⟨-, e⟩ | ⟨-, -, e⟩ | ⟨q, -, -, -, e⟩ | ⟨q, z, -, -, -, e⟩ := configOutcome_cases quality s
  · exact .inl (Except.error.inj (h.symm.trans e))
  · exact .inr (.inl (Except.error.inj (h.symm.trans e)))
  · exact .inr (.inr (Except.error.inj (h.symm.trans e)))
  · exact nomatch h.symm.trans e

/-- CONFIG leaves a block without a fault unconfigured, or at the beginning of a stream (42_engine.md R213). -/
theorem execConfig_engineState {s t : State} {quality : Nat} {interp : Bool} (hf : s.fault = none)
    (h : exec (.config quality interp) s = .next t) :
    t.err = .ok ∧ t.engineState = .awaitingInput ∨
      (t.err = .bounds ∨ t.err = .quality ∨ t.err = .capacity) ∧ t.engineState = .unconfigured := by
  obtain ⟨hfaulted, -⟩ | ⟨-, code, hcode, rfl⟩ | ⟨-, q, z, -, rfl⟩ := execConfig_cases h
  · simp [hf] at hfaulted
  · exact .inr ⟨configOutcome_error_code hcode, engineState_of_idle (s := s.failConfig code) hf rfl⟩
  · exact .inl ⟨rfl, engineState_of_idle (s := s.startStream q interp z) hf rfl⟩

section
variable {s : State} {last : Bool}

/-- With nothing pending after the flush PROCESS finds nothing to do (42_engine.md R209). -/
theorem processRun_of_exhausted (hyp : s.yp = 0#32) (hflushed : s.flushed = true) :
    processRun (s.call last) s.work = .done s.work :=
  processRun_of_stops (drain_of_no_pending (congrArg BitVec.toNat hyp)) (.inr hflushed)

/-- What the first drain of a PROCESS leaves pending. -/
theorem drain_work_done {w : Work} (h : drain (s.call last) s.work = .done w) :
    w.yp = s.yp.toNat - min s.opOutRoom.toNat s.yp.toNat ∧ w.flushed = s.flushed ∧ w.used = 0 := by
  obtain ⟨y, out, -, hlen, rfl⟩ := drain_done h
  have hlen : out.length = min (s.opOutRoom.toNat - 0) s.yp.toNat := hlen
  rw [Nat.sub_zero] at hlen
  exact ⟨hlen ▸ rfl, rfl, by simp [Work.used_eq, State.work]⟩

/-- A PROCESS that has less room than pending output leaves the rest pending (42_engine.md R191). -/
theorem processRun_yp_of_less_room {w : Work} (h : processRun (s.call last) s.work = .done w)
    (hroom : s.opOutRoom.toNat < s.yp.toNat) : w.yp = s.yp.toNat - s.opOutRoom.toNat := by
  obtain ⟨w1, hdrain, hrest⟩ := processRun_done h
  obtain ⟨hyp, -⟩ := drain_work_done hdrain
  obtain ⟨-, rfl⟩ | ⟨hyp', -⟩ := hrest
  · omega
  · omega

/-- After the flush a PROCESS with room enough leaves nothing pending (42_engine.md R209). -/
theorem processRun_of_flushed {w : Work} (h : processRun (s.call last) s.work = .done w)
    (hroom : s.yp.toNat ≤ s.opOutRoom.toNat) (hflushed : s.flushed = true) : w.yp = 0 ∧ w.flushed = true := by
  obtain ⟨w1, hdrain, hrest⟩ := processRun_done h
  obtain ⟨hyp, hflushed1, -⟩ := drain_work_done hdrain
  rw [hflushed] at hflushed1
  obtain ⟨-, rfl⟩ | ⟨-, hunflushed, -⟩ := hrest
  · exact ⟨by omega, hflushed1⟩
  · simp [hflushed1] at hunflushed

/-- Before the flush a PROCESS with room enough flushes exactly when LAST is set and it took the whole offer
(42_engine.md R194, R213). -/
theorem processRun_flushed_iff {w : Work} (h : processRun (s.call last) s.work = .done w)
    (hroom : s.yp.toNat ≤ s.opOutRoom.toNat) (hunflushed : s.flushed = false) :
    w.flushed = true ↔ last = true ∧ w.used = s.opInCount.toNat := by
  obtain ⟨w1, hdrain, hrest⟩ := processRun_done h
  obtain ⟨hyp, hflushed1, -⟩ := drain_work_done hdrain
  rw [hunflushed] at hflushed1
  obtain ⟨hstop, -⟩ | ⟨-, -, hpasses⟩ := hrest
  · simp [hflushed1] at hstop
    omega
  · rw [passes_flushed hpasses hflushed1 (by simp [passBound])]
    exact finalBatch_eq_true

end

/-- PROCESS leaves an exhausted block exhausted, refused or not (42_engine.md R213). -/
theorem execProcess_of_exhausted {s t : State} {last : Bool} (hr : s.running = none) (hs : s.engineState = .exhausted)
    (h : exec (.process last) s = .next t) : t.engineState = .exhausted := by
  obtain ⟨-, -, -, hexhausted, -⟩ := engineState_idle_iff hr
  obtain ⟨hf, hconf, hyp, hflushed⟩ := hexhausted.mp hs
  cases hrefusal : processRefusal s with
  | some code =>
    obtain rfl := Host.Outcome.next.inj ((exec_process_of_refusal hrefusal).symm.trans h)
    rw [engineState_raiseErr hr, hs]
  | none =>
    obtain rfl := Host.Outcome.next.inj
      ((exec_process_of_done hrefusal (processRun_of_exhausted hyp hflushed)).symm.trans h)
    rw [engineState_of_idle (s := s.finishProcess _) hf rfl]
    simp [State.work, hconf, hyp, hflushed]

/-- Settles O53: the commands' outcomes, read as engine states. -/
theorem engineStateTransitions : Obligations.EngineStateTransitions := by
  intro s t i hr h hrun hfault
  obtain ⟨sfaulted, sunconfigured, sdraining, -, sawaiting⟩ := engineState_idle_iff hr
  obtain ⟨tfaulted, tunconfigured, tdraining, texhausted, tawaiting⟩ := engineState_idle_iff hrun
  refine ⟨fun hs => ?_, fun quality interp hi hs => ?_, fun last hi => ?_⟩
  · have hf := sfaulted.mp hs
    obtain rfl := Host.Outcome.next.inj ((exec_of_fault hf i).symm.trans h)
    exact ⟨tfaulted.mpr hf, rfl⟩
  · subst hi
    exact execConfig_engineState (not_not.mp (mt sfaulted.mpr hs)) h
  subst hi
  have hdone : t.err = .ok → s.fault = none ∧ s.configured = true ∧ ∃ w,
      processRun (s.call last) s.work = .done w ∧ t = s.finishProcess w := fun hok => by
    obtain ⟨hrefusal, w, hw, ht⟩ := execProcess_ok h hrun hok
    obtain ⟨hf, hconf, -⟩ := processRefusal_eq_none.mp hrefusal
    exact ⟨hf, hconf, w, hw, ht⟩
  refine ⟨fun hs => ?_, fun herr => ?_, fun hs => execProcess_of_exhausted hr hs h, fun hs hok hroom => ?_,
    fun hs hok hroom hflushed => ?_, fun hs hok => ?_⟩
  · obtain ⟨hf, hconf⟩ := sunconfigured.mp hs
    obtain rfl := Host.Outcome.next.inj
      ((exec_process_of_refusal (processRefusal_of_unconfigured hf hconf)).symm.trans h)
    exact ⟨rfl, tunconfigured.mpr ⟨hf, hconf⟩⟩
  · obtain ⟨code, -, rfl⟩ | ⟨-, w, -, rfl⟩ | ⟨-, cause, w, -, rfl⟩ | ⟨-, w, -, rfl⟩ := execProcess_cases h
    · exact engineState_raiseErr hr code
    · simp at herr
    · simp at herr
    · simp at hrun
  · obtain ⟨hf, hconf, w, hw, rfl⟩ := hdone hok
    have hyp := processRun_yp_of_less_room hw hroom
    refine tdraining.mpr ⟨hf, hconf, ?_⟩
    rw [State.finishProcess_yp, ne_eq, ← BitVec.toNat_inj, BitVec.toNat_ofNat, BitVec.toNat_ofNat,
      Nat.mod_eq_of_lt (by omega), Nat.zero_mod]
    omega
  · obtain ⟨hf, hconf, w, hw, rfl⟩ := hdone hok
    obtain ⟨hyp, hflushed'⟩ := processRun_of_flushed hw hroom hflushed
    exact texhausted.mpr ⟨hf, hconf, by simp [hyp], hflushed'⟩
  · obtain ⟨hf, hconf, w, hw, rfl⟩ := hdone hok
    obtain ⟨hroom, hunflushed⟩ : s.yp.toNat ≤ s.opOutRoom.toNat ∧ s.flushed = false := by
      obtain hs | ⟨-, hroom, hunflushed⟩ := hs
      · obtain ⟨-, -, hyp, hunflushed⟩ := sawaiting.mp hs
        exact ⟨by simp [hyp], hunflushed⟩
      · exact ⟨hroom, hunflushed⟩
    have hin : (BitVec.ofNat 32 w.used).toNat = w.used :=
      Nat.mod_eq_of_lt ((processRun_limits hw).1.trans_lt s.opInCount.isLt)
    refine ⟨?_, fun hyp hunfl => tawaiting.mpr ⟨hf, hconf, hyp, hunfl⟩, fun hyp => tdraining.mpr ⟨hf, hconf, hyp⟩,
      fun hyp hfl => texhausted.mpr ⟨hf, hconf, hyp, hfl⟩⟩
    rw [State.finishProcess_flushed, State.finishProcess_resInUsed, ← BitVec.toNat_inj, hin]
    exact processRun_flushed_iff hw hroom hunflushed

end Sys2Proof.Machine
end

section
/-! PROOFS. A stream in chunks (spec/42_engine.md R220, R221): the invariant of the list of PROCESS commands that
`streamCalls` runs. -/

namespace Sys2Proof.Machine

/-! ## Between two calls -/

/-- States with the same configuration and factor have the same closed form. -/
theorem SameConfiguration.closedForm_eq {s t : State} (h : SameConfiguration s t) (hf : t.opFactor = s.opFactor) :
    closedForm (t.call false) = closedForm (s.call false) := by
  obtain ⟨hquality, hinterp, -, -, hxoff, -, -, hnwing, -, hparams⟩ := h
  refine Machine.closedForm_eq ?_ ?_ ?_
  · simp only [SameKernel, Call.kernel, State.call, hquality, hinterp, hnwing, hparams, hf]
  · simp only [State.call, hxoff]
  · simp only [State.call, hf]

/-- Where the block stands between the calls that stream `stream`, of which `pos` samples are consumed: it is sound for
its factor, tracks the stream, and has delivered, after `prior`, the outputs of the closed form that are not pending. -/
structure State.Streaming (stream : List Sample) (form : Nat → Option Sample) (dt : Nat) (prior : List (Option Sample))
    (pos : Nat) (s : State) : Prop where
  inv : s.StreamInv
  reach : s.SizesReach
  rom : RomTotal s.params s.cfgQuality
  configured : s.configured = true
  fault : s.fault = none
  lower : f64Le s.cfgMinFactor s.opFactor = true
  upper : f64Le s.opFactor s.cfgMaxFactor = true
  form_eq : closedForm (s.call false) stream = form
  dt_eq : timeStep s.opFactor = dt
  tracks : ∃ made base, s.Tracks stream pos made base ∧
    s.outPort.map some = prior ++ (List.range (made - s.yp.toNat)).map form

section
variable {stream : List Sample} {form : Nat → Option Sample} {dt pos n room : Nat} {prior : List (Option Sample)}
  {s t : State}

/-- Offering the next samples changes the operands and what stands at the ports. -/
theorem State.Streaming.offer (h : s.Streaming stream form dt prior pos) (n room : Nat) :
    (s.offerFrom stream pos n room).Streaming stream form dt prior pos := by
  have hform : closedForm ((s.offerFrom stream pos n room).call false) = closedForm (s.call false) :=
    closedForm_eq rfl rfl rfl
  obtain ⟨made, base, htracks, hout⟩ := h.tracks
  exact { h with form_eq := hform ▸ h.form_eq, tracks := ⟨made, base, by rwa [State.Tracks, hform], hout⟩ }

theorem offerFrom_opInCount (hn : n < 2 ^ 32) :
    (s.offerFrom stream pos n room).opInCount.toNat = ((stream.drop pos).take n).length :=
  Nat.mod_eq_of_lt ((List.length_take_le n _).trans_lt hn)

/-- A call that offers the next samples is accepted: after the flush there are none. -/
theorem State.Streaming.accepts (h : s.Streaming stream form dt prior pos) (hn : n < 2 ^ 32) (room : Nat) :
    (s.offerFrom stream pos n room).Accepts := by
  refine ⟨processRefusal_eq_none.mpr ⟨h.fault, h.configured, h.lower, h.upper, fun hflushed => ?_⟩,
    (offerFrom_opInCount hn).le, nofun⟩
  obtain ⟨made, base, ⟨-, -, -, -, -, -, -, hended⟩, -⟩ := h.tracks
  obtain ⟨rfl, -⟩ := hended hflushed
  simp [State.offerFrom]

/-- One call carries the stream on (42_engine.md R220, R221). -/
theorem State.Streaming.exec_process (h : s.Streaming stream form dt prior pos) (hn : n < 2 ^ 32)
    (ht : exec (.process (pos + ((stream.drop pos).take n).length == stream.length))
      (s.offerFrom stream pos n room) = .next t) :
    t.Streaming stream form dt prior (pos + t.resInUsed.toNat) := by
  have hacc := h.accepts hn room
  have hcount := offerFrom_opInCount (s := s) (stream := stream) (pos := pos) (room := room) hn
  have hport : (s.offerFrom stream pos n room).inPort = (stream.drop pos).take n := rfl
  have h := h.offer n room
  generalize s.offerFrom stream pos n room = u at *
  generalize hlast : (pos + ((stream.drop pos).take n).length == stream.length) = last at ht
  obtain ⟨made, base, htracks, hout⟩ := h.tracks
  have hinside : pos + u.opInCount.toNat ≤ stream.length := by
    have := htracks.1
    rw [hcount, List.length_take, List.length_drop]
    omega
  have hoffer : u.inPort.take u.opInCount.toNat = (stream.drop pos).take u.opInCount.toNat := by
    rw [hport, hcount, List.take_length, List.length_take, List.take_eq_take_min]
  obtain ⟨made', base', htracks', -, hout', hmade⟩ := processContinuesTheStream u t last stream pos made base h.inv
    h.reach h.rom hacc htracks hoffer hinside (fun hl => by rw [hcount]; exact beq_iff_eq.mp (hlast.trans hl)) ht
  obtain ⟨t', ht', -, hfault, -, hconf⟩ := acceptedProcessCompletes u last h.inv h.reach h.rom hacc
  obtain rfl : t' = t := Host.Outcome.next.inj (ht'.symm.trans ht)
  obtain ⟨hsame, ⟨-, -, hfactor, -⟩, -⟩ := execProcess_frame ht
  have hkeeps := hsame.closedForm_eq hfactor
  have hform : closedForm (u.call last) = closedForm (u.call false) := closedForm_eq rfl rfl rfl
  obtain ⟨hquality, -, hmin, hmax, hxoff, hxsize, hysize, hnwing, -, hparams⟩ := hsame
  exact {
    inv := execProcess_keeps_streamInv h.inv ht
    reach := by
      have := h.reach
      rwa [State.SizesReach, hxoff, hxsize, hysize, hnwing, hparams, hmin, hmax]
    rom := by rw [hparams, hquality]; exact h.rom
    configured := hconf
    fault := hfault
    lower := by rw [hmin, hfactor]; exact h.lower
    upper := by rw [hmax, hfactor]; exact h.upper
    form_eq := by rw [hkeeps]; exact h.form_eq
    dt_eq := by rw [hfactor]; exact h.dt_eq
    tracks := by
      refine ⟨made', base', htracks', ?_⟩
      rw [hout', hout, hform, h.form_eq, hmade, List.range_add, List.map_append, List.map_map, List.append_assoc]
      rfl }

/-- A list of calls carries the stream on (42_engine.md R221). -/
theorem streamCalls_streaming : ∀ {calls : List (Nat × Nat)} {pos pos' : Nat} {s t : State},
    s.Streaming stream form dt prior pos → (∀ call ∈ calls, call.1 < 2 ^ 32) →
    streamCalls stream calls pos s = some (pos', t) → t.Streaming stream form dt prior pos'
  | [], pos, pos', s, t, h, _, hrun => by
    obtain ⟨rfl, rfl⟩ : pos = pos' ∧ s = t := by simpa [streamCalls] using hrun
    exact h
  | (n, room) :: calls, pos, pos', s, t, h, hcalls, hrun => by
    rw [streamCalls] at hrun
    split at hrun
    · next u hu =>
      exact streamCalls_streaming (h.exec_process (hcalls _ List.mem_cons_self) hu)
        (fun call hcall => hcalls call (List.mem_cons_of_mem _ hcall)) hrun
    · simp at hrun

/-- The number of multiples of a step that lie below a bound (42_engine.md R221). -/
theorem count_eq_ceil {made bound dt : Nat} (hbelow : ∀ k < made, k * dt < bound) (hend : bound ≤ made * dt) :
    made = (bound + dt - 1) / dt := by
  obtain rfl | hdt := Nat.eq_zero_or_pos dt
  · have hnone : ¬ 0 < made := fun h => by
      have := hbelow 0 h
      omega
    rw [Nat.div_zero]
    omega
  refine (Nat.div_eq_of_lt_le ?_ (by rw [Nat.add_mul]; omega)).symm
  cases made with
  | zero => simp
  | succ k =>
    have := hbelow k (Nat.lt_succ_self k)
    rw [Nat.add_mul]
    omega

/-- An exhausted block is idle, has nothing pending and has flushed (10_state.md R64). -/
theorem parts_of_exhausted (h : t.engineState = .exhausted) : t.yp = 0#32 ∧ t.flushed = true := by
  have hf : t.fault = none := by
    by_contra hf
    simp [engineState_of_fault hf] at h
  have hr : t.running = none := by
    cases hr : t.running with
    | none => rfl
    | some i =>
      cases i with
      | config quality interp => simp [engineState_of_config hf hr] at h
      | process last => simp [engineState_of_process hf hr] at h
  obtain ⟨-, -, -, hexhausted, -⟩ := engineState_idle_iff hr
  obtain ⟨-, -, hyp, hflushed⟩ := hexhausted.mp h
  exact ⟨hyp, hflushed⟩

/-- An exhausted block has consumed the whole stream and delivered every output of it (42_engine.md R221). -/
theorem State.Streaming.of_exhausted (h : t.Streaming stream form dt prior pos) (hend : t.engineState = .exhausted) :
    pos = stream.length ∧ t.outPort.map some = prior ++
      (List.range ((2 ^ 32 * stream.length + dt - 1) / dt)).map form := by
  obtain ⟨hyp, hflushed⟩ := parts_of_exhausted hend
  obtain ⟨made, base, ⟨-, -, -, -, -, -, hbelow, hended⟩, hout⟩ := h.tracks
  obtain ⟨rfl, hmade⟩ := hended hflushed
  rw [h.dt_eq] at hbelow hmade
  refine ⟨rfl, ?_⟩
  rw [hout, hyp, ← count_eq_ceil hbelow hmade]
  rfl

end

/-- Settles O59: each call carries the stream on, and an exhausted block has delivered all of it. -/
theorem chunkingInvariance : Obligations.ChunkingInvariance := by
  intro s t stream calls pos hinv hreach hrom hconf hf hmin hmax htracks _ hcalls hrun hend
  have hstart : s.Streaming stream (closedForm (s.call false) stream) (timeStep s.opFactor) (s.outPort.map some) 0 :=
    ⟨hinv, hreach, hrom, hconf, hf, hmin, hmax, rfl, rfl, 0, 0, htracks, by simp⟩
  exact (streamCalls_streaming hstart (fun call hcall => (hcalls call hcall).1) hrun).of_exhausted hend

end Sys2Proof.Machine
end

section
/-! PROOFS. Faults, and what never stops the block: no step is without a next state, no command waits on ports that are
ready, and only a reset ends the sticky fault (spec/60_exceptions.md R230, R237 to R240, spec/70_reset_and_hazards.md
R275, R276). -/

namespace Sys2Proof.Machine

/-! ## The sticky fault -/

/-- Settles O18: a step serves an event, which leaves the fault alone or resets it, or runs a command, which the fault
refuses. -/
theorem faultedBlockRefusesEveryCommand : Obligations.FaultedBlockRefusesEveryCommand := by
  refine ⟨fun i s hf => exec_of_fault hf i, fun s t cause hf h => ?_⟩
  obtain hserved | ⟨i, u, -, hu, he⟩ := step_effect h
  · cases hserved with
    | quiet hsame => exact .inl (hsame.transport (P := (·.fault = some cause)) (fun _ => Iff.rfl) hf)
    | dropped _ _ hsame => exact .inl (hsame.transport (P := (·.fault = some cause)) (fun _ => Iff.rfl) hf)
    | reset hr _ => exact .inr hr
  · have hfu : u.fault = some cause := hu.transport (P := (·.fault = some cause)) (fun _ => Iff.rfl) hf
    obtain rfl := Host.Outcome.next.inj ((exec_of_fault (by simp [hfu]) i).symm.trans he)
    exact .inl hfu

/-- An accepted PROCESS whose run faults ends with that fault (60_exceptions.md R238). -/
theorem exec_process_of_fault {s : State} {last : Bool} {cause : FaultCause} {w : Work} (hr : processRefusal s = none)
    (h : processRun (s.call last) s.work = .fault cause w) :
    exec (.process last) s = .next (s.raiseFault cause w) := by
  simp only [exec, execProcess, hr, h]

/-- Settles O19: what every PROCESS keeps, a faulting one keeps too, and its transfers stay made. -/
theorem faultKeepsTheConfiguration : Obligations.FaultKeepsTheConfiguration := by
  intro last s cause w hr h
  have he := exec_process_of_fault hr h
  obtain ⟨hconfig, hops, hoverrun, hbus, hanswer, hlat⟩ := execProcess_frame he
  exact ⟨_, he, rfl, rfl, rfl, hconfig, hops, hoverrun, hbus, hanswer, hlat, rfl, rfl, rfl⟩

/-! ## With ready ports no part of PROCESS waits -/

/-- The run is done or faults: no port makes it wait (70_reset_and_hazards.md R276). -/
inductive Run.Ends : Run → Prop where
  | done (w : Work) : Ends (.done w)
  | fault (cause : FaultCause) (w : Work) : Ends (.fault cause w)

/-- The whole offer is presented, and the output port accepts the whole room. -/
def Call.PortsReady (c : Call) : Prop := c.n ≤ c.offer.length ∧ ∀ ready ∈ c.ready, c.room ≤ ready

section
variable {c : Call}

theorem Run.Ends.andThen {r : Run} {f : Work → Run} (h : r.Ends) (hf : ∀ w, r = .done w → (f w).Ends) :
    (r.andThen f).Ends := by
  cases h with
  | done w => exact hf w rfl
  | fault cause w => exact .fault cause w

/-- A loop does not wait when none of its rounds does, from a property the rounds carry. -/
theorem forRange_ends {P : Nat → Work → Prop} {body : Nat → Work → Run} {first count : Nat} {w : Work}
    (start : P first w) (round : ∀ k w, first ≤ k → k < first + count → P k w →
      (body k w).Ends ∧ ∀ w', body k w = .done w' → P (k + 1) w') : (forRange body first count w).Ends := by
  induction count generalizing first w with
  | zero => exact .done w
  | succ count ih =>
    obtain ⟨hends, hcarry⟩ := round first w (Nat.le_refl _) (by omega) start
    exact hends.andThen fun w' hw' => ih (hcarry w' hw') fun k w hk hk' => round k w (by omega) (by omega)

/-- A loop over the memories does not wait. -/
theorem forRange_ends_of_body {body : Nat → Work → Run} (h : ∀ k w, (body k w).Ends) (first count : Nat) (w : Work) :
    (forRange body first count w).Ends :=
  forRange_ends (P := fun _ _ => True) trivial fun k w _ _ _ => ⟨h k w, fun _ _ => trivial⟩

theorem xWrite_ends (i : Nat) (v : Sample) (w : Work) : (xWrite c i v w).Ends := by
  unfold xWrite
  split
  · exact .done _
  · exact .fault ..

theorem yWrite_ends (i : Nat) (v : Sample) (w : Work) : (yWrite c i v w).Ends := by
  unfold yWrite
  split
  · exact .done _
  · exact .fault ..

theorem xCopy_ends (dst src : Nat) (w : Work) : (xCopy c dst src w).Ends := by
  unfold xCopy
  split
  · exact xWrite_ends ..
  · exact .fault ..

theorem yCopy_ends (dst src : Nat) (w : Work) : (yCopy c dst src w).Ends := by
  unfold yCopy
  split
  · exact yWrite_ends ..
  · exact .fault ..

theorem outWrite_ends {src : Nat} {w : Work} (h : c.accepts w.written = true) : (outWrite c src w).Ends := by
  unfold outWrite
  split
  · rw [if_pos h]
    exact .done _
  · exact .fault ..

/-- DRAIN delivers no more than the room, all of which the port accepts (42_engine.md R187). -/
theorem drain_ends (hc : c.PortsReady) (w : Work) : (drain c w).Ends := by
  refine Run.Ends.andThen (forRange_ends (P := fun k v => v.written = w.written + k) rfl ?_) fun w1 _ =>
    (forRange_ends_of_body (fun _ _ => yCopy_ends ..) _ _ w1).andThen fun _ _ => .done _
  intro k v _ hk hv
  have haccepts : c.accepts v.written = true := Call.accepts_eq_true.mpr fun ready hready => by
    have := hc.2 ready hready
    omega
  refine ⟨outWrite_ends haccepts, fun v' hdone => ?_⟩
  obtain ⟨a, -, -, rfl⟩ := outWrite_eq_done.mp hdone
  simp [Work.written_eq] at hv ⊢
  omega

theorem pullAndPad_ends (hc : c.PortsReady) (w : Work) : (pullAndPad c w).Ends := by
  obtain ⟨x, count, -, -, hpull⟩ := pull_completes (w := w) hc.1
  rw [pullAndPad, hpull, Run.done_andThen]
  split
  · exact (forRange_ends_of_body (fun _ _ => xWrite_ends ..) _ _ _).andThen fun _ _ => .done _
  · exact .done _

theorem passOne_ends (w : Work) : (passOne c w).Ends := by
  unfold passOne
  split
  · exact .fault ..
  · exact (yWrite_ends ..).andThen fun _ _ => .done _

theorem passFrom_ends (bound : Nat) : ∀ (slots : Nat) (w : Work), (passFrom c bound slots w).Ends
  | 0, w => by
    rw [passFrom]
    split
    · exact .fault ..
    · exact .done w
  | slots + 1, w => by
    rw [passFrom]
    split
    · exact (passOne_ends w).andThen fun w' _ => passFrom_ends bound slots w'
    · exact .done w

theorem passAndDrain_ends (hc : c.PortsReady) (nx : Nat) (w : Work) : (passAndDrain c nx w).Ends := by
  have hshift (v : Work) : (retireShift c v).Ends :=
    (forRange_ends_of_body (fun _ _ => xCopy_ends ..) _ _ v).andThen fun _ _ => .done _
  exact (passFrom_ends _ _ _).andThen fun _ _ => (hshift _).andThen fun v _ => drain_ends hc v

theorem passes_ends (hc : c.PortsReady) : ∀ (bound : Nat) (w : Work), (passes c bound w).Ends
  | 0, w => .done w
  | bound + 1, w => by
    refine (pullAndPad_ends hc w).andThen fun w1 _ => ?_
    dsimp only
    split
    · exact .done w1
    · refine (passAndDrain_ends hc _ w1).andThen fun w2 _ => ?_
      split
      · exact .done w2
      · exact passes_ends hc bound w2

/-- A PROCESS that finds the whole offer presented and the whole room accepted does not wait
(70_reset_and_hazards.md R276). -/
theorem processRun_ends (hc : c.PortsReady) (w : Work) : (processRun c w).Ends := by
  refine (drain_ends hc w).andThen fun w1 _ => ?_
  split
  · exact .done w1
  · exact passes_ends hc _ w1

end

/-! ## Every step has a next state -/

/-- No command answers with a fault or a refusal of the model (60_exceptions.md R230). -/
theorem exec_has_next (i : Instr) (s : State) : ∃ t, exec i s = .next t := by
  cases i with
  | config quality interp =>
    change ∃ t, execConfig quality interp s = .next t
    unfold execConfig
    split
    · exact ⟨_, rfl⟩
    · split <;> exact ⟨_, rfl⟩
  | process last =>
    change ∃ t, execProcess last s = .next t
    unfold execProcess
    split
    · exact ⟨_, rfl⟩
    · split <;> exact ⟨_, rfl⟩

theorem startCommand_has_next (w : Word) (s : State) : ∃ t, startCommand w s = .next t := by
  unfold startCommand
  split
  · exact ⟨_, rfl⟩
  · split
    · exact exec_has_next ..
    · exact exec_has_next ..
    · exact ⟨_, rfl⟩

theorem writeAccess_has_next (width address : Nat) (v : Word) (s : State) :
    ∃ t, writeAccess width address v s = .next t := by
  unfold writeAccess
  split
  · exact ⟨_, rfl⟩
  · exact startCommand_has_next ..
  · exact ⟨_, rfl⟩

theorem serveIdle_has_next (s : State) : ∃ t, serveIdle s = .next t := by
  unfold serveIdle
  cases s.bus with
  | nil => exact ⟨_, rfl⟩
  | cons e rest =>
    cases e with
    | write width address v => exact writeAccess_has_next ..
    | _ => exact ⟨_, rfl⟩

theorem step_has_next (s : State) : ∃ t, step s = .next t := by
  obtain ⟨-, h⟩ | ⟨i, -, -, h⟩ | ⟨i, -, -, h⟩ := step_cases s <;> rw [h]
  · exact serveIdle_has_next s
  · obtain ⟨u, hu⟩ := exec_has_next i s
    exact ⟨_, by rw [completeCommand, hu]⟩
  · exact ⟨_, rfl⟩

/-- A command that ready ports do not make wait has ended when it answers; CONFIG uses no port. -/
theorem exec_running_of_portsReady {i : Instr} {s t : State} (hready : s.PortsReady) (h : exec i s = .next t) :
    t.running = none := by
  cases i with
  | config quality interp =>
    obtain ⟨-, rfl⟩ | ⟨-, code, -, rfl⟩ | ⟨-, q, z, -, rfl⟩ := execConfig_cases h <;> rfl
  | process last =>
    obtain ⟨code, -, rfl⟩ | ⟨-, w, -, rfl⟩ | ⟨-, cause, w, -, rfl⟩ | ⟨-, w, hstall, -⟩ := execProcess_cases h
    · rfl
    · rfl
    · rfl
    · have hends := processRun_ends (c := s.call last) hready s.work
      rw [hstall] at hends
      nomatch hends

/-- Settles O7: every branch of a step answers with a state, and with ready ports no run of PROCESS waits. -/
theorem nothingStopsTheMachine : Obligations.NothingStopsTheMachine := by
  refine ⟨step_has_next, fun i s hready => ?_⟩
  obtain ⟨t, h⟩ := exec_has_next i s
  exact ⟨t, h, exec_running_of_portsReady hready h⟩

end Sys2Proof.Machine
end

section
/-! PROOFS. The reset input, ports that make PROCESS wait, and the events of the platform that are no register accesses
(spec/70_reset_and_hazards.md R260, R261, R276, spec/20_memory.md R87 to R90). -/

namespace Sys2Proof.Machine

/-! ## Events other than accesses -/

/-- An event that an idle block and a busy one serve alike has that effect in each condition of the block. -/
theorem step_serves {s : State} (effect : State → State)
    (hserve : ∀ a : State, a.bus = s.bus → serveIdle a = .next (effect a) ∧ serveWhileBusy a = effect a) :
    (s.running = none → step s = .next (effect s)) ∧
    (∀ i k, s.running = some i → s.busyLeft = k + 1 → step s = .next (effect { s with busyLeft := k })) ∧
    (∀ i u, s.WaitsAs i u → step s = .next (effect u)) := by
  refine ⟨fun hr => (step_idle hr).trans (hserve s rfl).1, fun i k hr hleft => ?_, fun i u hwait => ?_⟩
  · rw [step_counting hr hleft, (hserve { s with busyLeft := k } rfl).2]
  · obtain rfl := hwait.eq
    rw [step_waiting hwait, (hserve u rfl).2]

section
variable {s : State} {rest : List HostEvent}

theorem serve_offer {samples : List Sample} (hbus : s.bus = .offer samples :: rest) :
    serveIdle s = .next { s with bus := rest, inPort := samples } ∧
    serveWhileBusy s = { s with bus := rest, inPort := samples } := by
  simp only [serveIdle, serveWhileBusy, hbus, and_self]

theorem serve_accept {ready : Option Nat} (hbus : s.bus = .accept ready :: rest) :
    serveIdle s = .next { s with bus := rest, outReady := ready } ∧
    serveWhileBusy s = { s with bus := rest, outReady := ready } := by
  simp only [serveIdle, serveWhileBusy, hbus, and_self]

theorem serve_reset (hbus : s.bus = .reset :: rest) :
    serveIdle s = .next { s with bus := rest }.resetInput ∧
    serveWhileBusy s = { s with bus := rest }.resetInput := by
  simp only [serveIdle, serveWhileBusy, hbus, and_self]

end

/-! ## The transfers a reset keeps -/

section
variable {s : State}

/-- The transfers that a reset keeps of an accepted PROCESS are a beginning of those it makes. -/
theorem transfersMade_append {last : Bool} (hrun : s.running = some (.process last)) (hr : processRefusal s = none) :
    ∃ later, (processRun (s.call last) s.work).reached.moves = s.transfersMade ++ later := by
  simp only [State.transfersMade, hrun, hr]
  exact ⟨_, (List.take_append_drop ..).symm⟩

/-- Without a PROCESS that runs there are none. -/
theorem transfersMade_eq_nil (h : s.running = none ∨ ∃ quality interp, s.running = some (.config quality interp)) :
    s.transfersMade = [] := by
  obtain h | ⟨quality, interp, h⟩ := h <;> simp only [State.transfersMade, h]

end

/-- Settles O17: a reset moves at the ports the transfers it keeps, a completed PROCESS all it made. -/
theorem resetKeepsTransfersMade : Obligations.ResetKeepsTransfersMade := by
  refine fun s => ⟨fun last w hrun hr hw => ?_, fun last w hr hw => ?_, fun hidle => ?_⟩
  · subst hw
    obtain ⟨later, hmoves⟩ := transfersMade_append hrun hr
    exact ⟨s.transfersMade, later, hmoves, rfl, rfl, rfl⟩
  · exact ⟨_, exec_process_of_done hr hw, rfl, rfl⟩
  · simp [SamePorts, transfersMade_eq_nil hidle]

/-! ## Ports that make PROCESS wait -/

section
variable {c : Call} {s : State} {last : Bool}

/-- Pulling goes on while samples are presented, and waits at the first that is not (42_engine.md R192,
70_reset_and_hazards.md R276). -/
theorem forRange_pullOne_stalls : ∀ {count first : Nat} {w : Work}, w.used ≤ c.offer.length →
    c.offer.length < w.used + count → w.xread + count ≤ c.limit →
    ∃ w', forRange (pullOne c) first count w = .stall w'
  | 0, _, _, hused, hover, _ => absurd hover (Nat.not_lt.mpr hused)
  | count + 1, first, w, hused, hover, hlimit => by
    rw [forRange_succ, pullOne]
    cases hin : c.inRead w.used with
    | none => exact ⟨w, rfl⟩
    | some v =>
      have hlt : w.used < c.offer.length := by
        simp only [Call.inRead, Option.ite_none_right_eq_some] at hin
        exact (List.getElem?_eq_some_iff.mp hin.2).1
      simp only [xWrite, if_pos (show w.xread < c.limit by omega), Run.done_andThen]
      rw [Work.used_eq] at hused hover hlt
      refine forRange_pullOne_stalls ?_ ?_ ?_ <;> simp only [Work.used_eq, inputsOf_append, inputsOf_input] <;> omega

/-- The first pull of a PROCESS that has nothing pending waits when it needs more samples than are presented. -/
theorem processRun_stalls_at_pull (hyp : s.yp = 0#32) (hunflushed : s.flushed = false)
    (hshort : s.inPort.length < min (s.xsize.toNat - s.xread.toNat) s.opInCount.toNat) :
    ∃ w, processRun (s.call last) s.work = .stall w := by
  have hyp' : s.work.yp = 0 := congrArg BitVec.toNat hyp
  have hused : s.work.used = 0 := rfl
  obtain ⟨w, hpull⟩ : ∃ w, pull (s.call last) s.work = .stall w := by
    refine forRange_pullOne_stalls (by omega) ?_ ?_ <;> simp only [State.call, State.work, Call.limit] <;> omega
  refine ⟨w, ?_⟩
  rw [processRun, drain_of_no_pending hyp', Run.done_andThen, if_neg (by simp [hyp, State.work, hunflushed]),
    passBound, passes, pullAndPad, hpull]
  rfl

/-- The first drain of a PROCESS waits when the port accepts fewer samples than there is room for. -/
theorem processRun_stalls_at_drain {ready : Nat} (hyp : s.yp.toNat ≤ s.ysize.toNat) (hwritten : s.y.Written s.yp.toNat)
    (hready : s.outReady = some ready) (hlt : ready < min s.opOutRoom.toNat s.yp.toNat) :
    ∃ w, processRun (s.call last) s.work = .stall w := by
  have hnone : s.work.written = 0 := rfl
  obtain ⟨out, -, hdrain⟩ := drain_stalls (c := s.call last) (w := s.work) hyp hwritten hready (by omega)
    (by rw [hnone, Nat.zero_add]; exact hlt)
  exact ⟨_, by rw [processRun, hdrain, Run.stall_andThen]⟩

theorem exec_process_of_stall {w : Work} (hr : processRefusal s = none)
    (h : processRun (s.call last) s.work = .stall w) : exec (.process last) s = .next (s.waitPort (.process last)) := by
  simp only [exec, execProcess, hr, h]

/-- A PROCESS that still runs when it answers waits on a port. -/
theorem exec_process_eq_waitPort {t : State} (h : exec (.process last) s = .next t) (hrun : t.running ≠ none) :
    t = s.waitPort (.process last) := by
  obtain ⟨code, -, rfl⟩ | ⟨-, w, -, rfl⟩ | ⟨-, cause, w, -, rfl⟩ | ⟨-, w, -, ht⟩ := execProcess_cases h
  · exact absurd rfl hrun
  · exact absurd rfl hrun
  · exact absurd rfl hrun
  · exact ht

/-- What PROCESS does does not depend on the command that BUSY stands for. -/
theorem exec_process_congr_running (running : Option Instr) :
    exec (.process last) { s with running } = exec (.process last) s := by
  have hrefusal : processRefusal { s with running } = processRefusal s := rfl
  have hrun : processRun ({ s with running }.call last) { s with running }.work = processRun (s.call last) s.work := rfl
  simp only [exec, execProcess, hrefusal, hrun]
  cases processRefusal s with
  | some code => rfl
  | none => cases processRun (s.call last) s.work <;> rfl

end

/-- Settles O52: PROCESS waits in the state it was tried from, so that what the ports present next is all that counts;
and an event at a port sets that port. -/
theorem portStallKeepsBusy : Obligations.PortStallKeepsBusy := by
  refine ⟨fun s t last h hrun => ?_, fun s last hr hyp hunflushed hshort => ?_,
    fun s last ready hr hyp hwritten hready hlt => ?_, fun s samples rest hbus => ?_, fun s ready rest hbus => ?_⟩
  · obtain rfl := exec_process_eq_waitPort h hrun
    refine ⟨rfl, fun hready => hrun (exec_running_of_portsReady hready h), fun samples ready hleft => ?_⟩
    rw [← exec_process_congr_running (s := { s with inPort := samples, outReady := ready }) (some (.process last)),
      State.waitPort, ← hleft]
  · obtain ⟨w, hw⟩ := processRun_stalls_at_pull hyp hunflushed hshort
    exact exec_process_of_stall hr hw
  · obtain ⟨w, hw⟩ := processRun_stalls_at_drain hyp hwritten hready hlt
    exact exec_process_of_stall hr hw
  · exact step_serves (fun a => { a with bus := rest, inPort := samples }) fun a ha => serve_offer (ha.trans hbus)
  · exact step_serves (fun a => { a with bus := rest, outReady := ready }) fun a ha => serve_accept (ha.trans hbus)

/-! ## The registers after a reset -/

/-- STATUS and CFG of a block that has been reset are 0 (10_state.md R32). -/
@[simp] theorem resetInput_status (s : State) : s.resetInput.status = 0#64 := by
  have hstate : s.resetInput.engineState = .unconfigured := rfl
  simp [State.status, State.busy, hstate, State.reset, statusWord, ErrCode.code, EngineState.code, causeCode]

@[simp] theorem resetInput_cfg (s : State) : s.resetInput.cfg = 0#64 := rfl

/-- Settles O16: the reset values are those of the state after power-on, and a reset is served alike in each condition
of the block. -/
theorem resetPutsEveryRegisterAtItsValue : Obligations.ResetPutsEveryRegisterAtItsValue := by
  refine ⟨fun s => ⟨?_, rfl, rfl, rfl, rfl, rfl⟩, fun s rest hbus => ?_, rfl, rfl, rfl⟩
  · simp [State.registerTable, State.reset, F64.one]
  · exact step_serves (fun a => { a with bus := rest }.resetInput) fun a ha => serve_reset (ha.trans hbus)

end Sys2Proof.Machine
end
